-- ==== Sys2Proof/Word.lean ====
section
/-! DEFINITION. The two word types of the CORE (00_scope.md R8). Their widths are `Config.DW` and `Config.CW`, written
here as numerals so that arithmetic tactics see them; `byte_width` and `cnt_width` in `Config.lean` hold the two
together. -/

namespace Sys2Proof

/-- A byte: `DW` bits, unsigned (R8, R9). -/
abbrev Byte := BitVec 8

/-- A counter: `CW` bits, unsigned (R8). -/
abbrev Cnt := BitVec 12

end Sys2Proof
end

