-- ==== Sys2Proof/Syntax.lean ====
section
/-! DEFINITION. The syntax: roles, phases, events, the operations of opcode_table.json (one constructor of
`Instr` a row), the encodings they are fetched from, and the moves of the agents. -/

namespace Sys2Proof

/-- Which sequencer an instance of the CORE is, fixed per instance (R8, R270). -/
inductive Role where
  | device
  | host
  deriving DecidableEq, Repr, Inhabited

/-- The phases of the DEVICE sequencer (R24). -/
inductive DPhase where
  | dErase
  | dAwait
  | dReply
  | dRecv
  | dVerify
  | dCommit
  | dReadback
  | dFault
  deriving DecidableEq, Repr, Inhabited

/-- The phases of the HOST sequencer (R37). -/
inductive HPhase where
  | hIdle
  | hEncode
  | hReq
  | hAwait
  | hSend
  | hReadback
  | hDone
  | hFailed
  deriving DecidableEq, Repr, Inhabited

/-- The events the environment raises on the HOST (R262): `START(P, FI)` with the `FIC` word of R108,
`TIMEOUT`, `LINKFAIL`. -/
inductive HostEvent where
  | start (p : List Byte) (fic : BitVec 22)
  | timeout
  | linkfail
  deriving DecidableEq, Repr, Inhabited

/-- Every event of the environment (R262). -/
inductive Event where
  | reset (r : Role)
  | host (e : HostEvent)
  deriving DecidableEq, Repr, Inhabited

/-- The operations and wire values of opcode_table.json, one constructor a row. The byte operand of a
receiving operation is the byte it takes from its incoming channel (log 18). -/
inductive Instr where
  /-- CRC.CLR (R131), on the engine of instance `r` (log 11). -/
  | crcClr (r : Role)
  /-- CRC.BYTE b (R133). -/
  | crcByte (r : Role) (b : Byte)
  /-- CRC.BIT (R132). -/
  | crcBit (r : Role)
  /-- NV.READ a (R152). -/
  | nvRead (a : Cnt)
  /-- NV.WRITE a, b (R153). -/
  | nvWrite (a : Cnt) (b : Byte)
  /-- NV.ERASE a (R154). -/
  | nvErase (a : Cnt)
  /-- NV.ERWR a, b (R155). -/
  | nvErwr (a : Cnt) (b : Byte)
  /-- FC.ENCODE P (R171). -/
  | fcEncode (p : List Byte)
  /-- FC.CLASSIFY b (R172). -/
  | fcClassify (b : Byte)
  /-- FI.APPLY with the fields of its `FIC` word (R108, R176). -/
  | fiApply (mode : BitVec 2) (offset : Cnt) (value : Byte)
  /-- IV.VERIFY W (R250). -/
  | ivVerify (w : List Byte)
  /-- HS.D_ARM (R192). -/
  | hsDArm
  /-- HS.D_SKIP b (R193). -/
  | hsDSkip (b : Byte)
  /-- HS.D_REQ (R194). -/
  | hsDReq
  /-- HS.D_ACK (R195). -/
  | hsDAck
  /-- HS.H_REQ (R196). -/
  | hsHReq
  /-- HS.H_ACK (R197). -/
  | hsHAck
  /-- HS.H_NAK b (R198). -/
  | hsHNak (b : Byte)
  /-- HS.H_TIMEOUT (R199). -/
  | hsHTimeout
  /-- DS.ERASE (R211). -/
  | dsErase
  /-- DS.RX.DATA b (R212). -/
  | dsRxData (b : Byte)
  /-- DS.RX.TERM (R213). -/
  | dsRxTerm
  /-- DS.RX.OVER b (R214). -/
  | dsRxOver (b : Byte)
  /-- DS.RX.EMPTY (R215). -/
  | dsRxEmpty
  /-- DS.VERIFY (R216). -/
  | dsVerify
  /-- DS.COMMIT (R217). -/
  | dsCommit
  /-- DS.RB.BYTE (R218). -/
  | dsRbByte
  /-- DS.RB.TERM (R219). -/
  | dsRbTerm
  /-- LS.START(P, FI) with the fields of the `FIC` word (R222). -/
  | lsStart (p : List Byte) (mode : BitVec 2) (offset : Cnt) (value : Byte)
  /-- LS.ENCODE (R223). -/
  | lsEncode
  /-- LS.TX (R224). -/
  | lsTx
  /-- LS.RB.DATA b (R225). -/
  | lsRbData (b : Byte)
  /-- LS.RB.TERM (R226). -/
  | lsRbTerm
  /-- LS.RB.OVER b (R227). -/
  | lsRbOver (b : Byte)
  /-- LS.RB.TIMEOUT (R228). -/
  | lsRbTimeout
  /-- LS.LINKFAIL (R229). -/
  | lsLinkfail
  /-- RESET(inst) (R300). -/
  | reset (r : Role)
  /-- The wire value TOK_REQ taken by role `r` (R101, R102). -/
  | tokReq (r : Role)
  /-- The wire value TOK_ACK taken by role `r` (R101, R102). -/
  | tokAck (r : Role)
  /-- The wire value TERM taken by role `r` (R101, R102). -/
  | term (r : Role)
  deriving DecidableEq, Repr, Inhabited

/-- What selects the DEVICE's next operation, format `SEQ` device (R109, R102): the phase code, the byte at
the head of `H2D`, and the counters the guards read. -/
structure DevWord where
  phase : BitVec 3
  head : Option Byte
  ea : Cnt
  n : Cnt
  size : Cnt
  ri : Cnt
  deriving DecidableEq, Repr, Inhabited

/-- What selects the HOST's next operation, format `SEQ` host (R110, R102): the phase code, the byte at the
head of `D2H`, the readback counter, and the event the environment raises, if any. -/
structure HostWord where
  phase : BitVec 3
  head : Option Byte
  rn : Cnt
  event : Option HostEvent
  deriving DecidableEq, Repr, Inhabited

/-- The encodings an operation is fetched from (R100). -/
inductive Encoding where
  /-- Format `CEC`, 10 bits, to the engine of instance `r` (R107). -/
  | cec (r : Role) (w : BitVec 10)
  /-- Format `NVC`, 22 bits (R106). -/
  | nvc (w : BitVec 22)
  /-- Format `FIC`, 22 bits (R108). -/
  | fic (w : BitVec 22)
  /-- Format `W8`: byte `b` before role `r` (R101). -/
  | w8 (r : Role) (b : Byte)
  /-- Format `SEQ`, device (R109). -/
  | dev (w : DevWord)
  /-- Format `SEQ`, host (R110). -/
  | host (w : HostWord)
  /-- The event `RESET(r)`, which has no code (R300). -/
  | reset (r : Role)
  /-- The payload handed to FC.ENCODE, which has no command word (R171). -/
  | payload (p : List Byte)
  /-- The byte handed to FC.CLASSIFY (R172). -/
  | classify (b : Byte)
  /-- The window handed to IV.VERIFY, which has no command word (R250). -/
  | window (w : List Byte)
  /-- A word of opcode_table.json given as its bits `w`, `nbits` of them; its width selects the format (log 12). -/
  | raw (nbits : Nat) (w : Nat)
  deriving DecidableEq, Repr, Inhabited

/-- The two link channels (R68). -/
inductive Chan where
  | h2d
  | d2h
  deriving DecidableEq, Repr, Inhabited

/-- What the link or a sender that does not follow the protocol may do to a channel (R68 `LINK_LOSS`, R214, log 9). -/
inductive LinkAct where
  /-- Byte number `k` in flight is lost. -/
  | drop (c : Chan) (k : Nat)
  /-- Byte number `k` in flight becomes `b`. -/
  | alter (c : Chan) (k : Nat) (b : Byte)
  /-- A byte `b` that no sequencer sent joins the tail. -/
  | inject (c : Chan) (b : Byte)
  deriving DecidableEq, Repr, Inhabited

/-- One move of one agent (R7, R262, R319, log 1). -/
inductive Move where
  /-- The sequencer of role `r` takes its enabled step, if it has one. -/
  | turn (r : Role)
  /-- The environment raises an event. -/
  | event (e : Event)
  /-- The test bench issues a command. -/
  | bench (e : Encoding)
  /-- The link loses, alters or gains a byte. -/
  | link (a : LinkAct)
  /-- The whole system is powered off and on again (R64, R275, R301). -/
  | powerCycle
  deriving DecidableEq, Repr, Inhabited

end Sys2Proof
end

