-- ==== Sys2Proof/Config.lean ====
section
/-! DEFINITION. The implementation parameters of 00_scope.md R8, and the free values: parameters the spec leaves
open (92_eei_decisions.md, "OPEN"), which are constants without a body, so that no proof can see a value. -/

namespace Sys2Proof.Config

/-- `CAP`: the number of NV cells and the receive limit (R8). -/
def CAP : Nat := 2048

/-- `MAXPAY` = `CAP - 1`: the largest payload length (R8). -/
def MAXPAY : Nat := CAP - 1

/-- `AW`: the width of an NV address, the smallest `w` with `2 ^ w ≥ CAP` (R8, R60). The storage port's address field has
`CW` bits instead, so that an address outside the array can be said (R106). -/
def AW : Nat := 11

/-- `CW`: the width of the counters, the smallest `w` with `2 ^ w > CAP` (R8, decision D36). -/
def CW : Nat := 12

/-- `DW`: the width of a cell, of a byte and of the accumulator (R8). -/
def DW : Nat := 8

/-- The type `Byte` has `DW` bits (R8). -/
theorem byte_width : Byte = BitVec DW := rfl

/-- The type `Cnt` has `CW` bits (R8). -/
theorem cnt_width : Cnt = BitVec CW := rfl

/-- `POLY`: the CRC feedback constant (R8). -/
def POLY : Byte := 0x07

/-- `CRC_INIT`: the accumulator's start value (R8, decision D3, log 8). -/
def CRC_INIT : Byte := 0x00

/-- `ERASED`: what an erased cell reads as (R8, decision D5, log 8). -/
def ERASED : Byte := 0xFF

/-- `TOK_REQ`: the handshake request token (R101). -/
def TOK_REQ : Byte := 0x4F

/-- `TOK_ACK`: the handshake reply token (R101). -/
def TOK_ACK : Byte := 0x54

/-- `TERM`: the frame terminator (R101). -/
def TERM : Byte := 0x00

/-- `NV_OVERWRITE(old, new)`: what NV.WRITE leaves in a cell that is not erased. Free value (R153, U1, log 6). -/
opaque nvOverwrite : Byte → Byte → Byte

/-- `NV0(a)`: the content of cell `a` at first power-on. Free value (R22, R64, U2, log 5). -/
opaque nv0 : Nat → Byte

/-- The move that comes next when none has been placed: any enabled step of any agent may be the next one.
Free value (R7, U15, log 1). -/
opaque schedule : Nat → Move

end Sys2Proof.Config
end

