-- ==== Sys2Proof/WellFormed.lean ====
section
/-! DEFINITION. The well-formedness of an operation: its operands are ones its encoding admits (30_encoding.md R102). -/

namespace Sys2Proof

/-- Whether the operands of `i` are ones its encoding admits: a receiving operation's byte is one that decodes to
it (R102), and the payload of FC.ENCODE is one its caller may pass (R171). An NV address at or above `CAP` and the
reserved injector mode are representable, and refused or failed when executed (R106, R115), so they are well formed. -/
def Instr.wf : Instr → Bool
  | .hsDSkip b => b != Config.TOK_REQ
  | .hsHNak b => b != Config.TOK_ACK
  | .dsRxData b => b != Config.TERM
  | .dsRxOver b => b != Config.TERM
  | .lsRbData b => b != Config.TERM
  | .lsRbOver b => b != Config.TERM
  | .fcEncode p => decide (p.length ≤ Config.MAXPAY)
  | .crcClr _ => true
  | .crcByte _ _ => true
  | .crcBit _ => true
  | .nvRead _ => true
  | .nvWrite _ _ => true
  | .nvErase _ => true
  | .nvErwr _ _ => true
  | .fcClassify _ => true
  | .fiApply _ _ _ => true
  | .ivVerify _ => true
  | .hsDArm => true
  | .hsDReq => true
  | .hsDAck => true
  | .hsHReq => true
  | .hsHAck => true
  | .hsHTimeout => true
  | .dsErase => true
  | .dsRxTerm => true
  | .dsRxEmpty => true
  | .dsVerify => true
  | .dsCommit => true
  | .dsRbByte => true
  | .dsRbTerm => true
  | .lsStart _ _ _ _ => true
  | .lsEncode => true
  | .lsTx => true
  | .lsRbTerm => true
  | .lsRbTimeout => true
  | .lsLinkfail => true
  | .reset _ => true
  | .tokReq _ => true
  | .tokAck _ => true
  | .term _ => true

end Sys2Proof
end

