-- ==== Sys2Proof/Decode.lean ====
section
/-! DEFINITION. The decoder, total on every encoding and rejecting by name, and the encoder (30_encoding.md R100 to
R115). -/

namespace Sys2Proof

/-- Why an encoding is no operation. -/
inductive Reject where
  /-- `SEQ`: no transition is enabled, or the event is lost (R11 blocked, R262). -/
  | noneEnabled
  /-- `CEC` with the reserved code `op = 11`, which the engine ignores (R115). -/
  | cecReserved
  /-- `W8` before role `r` with a byte `b` that is none of the three wire values: data, which is no row of the table and
  which the receiver's phase decodes (R101, R102). -/
  | plainByte (r : Role) (b : Byte)
  /-- Bits set above the width of the format (log 12). -/
  | wordTooWide
  /-- A payload longer than `MAXPAY`, which FC.ENCODE's caller never passes (R171). -/
  | payloadTooLong
  deriving DecidableEq, Repr

/-! ## Codes -/

/-- The 3-bit code of a DEVICE phase (R24, R109). -/
def DPhase.code : DPhase → BitVec 3
  | .dErase => 0
  | .dAwait => 1
  | .dReply => 2
  | .dRecv => 3
  | .dVerify => 4
  | .dCommit => 5
  | .dReadback => 6
  | .dFault => 7

/-- The DEVICE phase of a 3-bit code; all eight codes are used (R109). -/
def DPhase.ofCode (c : BitVec 3) : DPhase :=
  match c.toNat with
  | 0 => .dErase
  | 1 => .dAwait
  | 2 => .dReply
  | 3 => .dRecv
  | 4 => .dVerify
  | 5 => .dCommit
  | 6 => .dReadback
  | _ => .dFault

/-- The 3-bit code of a HOST phase (R37, R110). -/
def HPhase.code : HPhase → BitVec 3
  | .hIdle => 0
  | .hEncode => 1
  | .hReq => 2
  | .hAwait => 3
  | .hSend => 4
  | .hReadback => 5
  | .hDone => 6
  | .hFailed => 7

/-- The HOST phase of a 3-bit code; all eight codes are used (R110). -/
def HPhase.ofCode (c : BitVec 3) : HPhase :=
  match c.toNat with
  | 0 => .hIdle
  | 1 => .hEncode
  | 2 => .hReq
  | 3 => .hAwait
  | 4 => .hSend
  | 5 => .hReadback
  | 6 => .hDone
  | _ => .hFailed

/-! ## Fields of the 22-bit words (`NVC` R106, `FIC` R108) -/

/-- Bits [21:20]: `op` of `NVC`, `FI_MODE` of `FIC`. -/
def wordTop (w : BitVec 22) : BitVec 2 := w.extractLsb' 20 2

/-- Bits [19:8]: `addr` of `NVC`, `FI_OFFSET` of `FIC`. -/
def wordMid (w : BitVec 22) : Cnt := w.extractLsb' 8 12

/-- Bits [7:0]: `data` of `NVC`, `FI_VALUE` of `FIC`. -/
def wordLow (w : BitVec 22) : Byte := w.extractLsb' 0 8

/-- The 22-bit word with the three fields. -/
def word22 (top : BitVec 2) (mid : Cnt) (low : Byte) : BitVec 22 := top ++ mid ++ low

/-! ## The decoder, one function a format -/

/-- Format `CEC` (R107): `op` in bits [9:8], `data` in bits [7:0]. -/
def decodeCec (r : Role) (w : BitVec 10) : Except Reject Instr :=
  match (w.extractLsb' 8 2).toNat with
  | 0 => .ok (.crcClr r)
  | 1 => .ok (.crcByte r (w.extractLsb' 0 8))
  | 2 => .ok (.crcBit r)
  | _ => .error .cecReserved

/-- Format `NVC` (R106). -/
def decodeNvc (w : BitVec 22) : Except Reject Instr :=
  match (wordTop w).toNat with
  | 0 => .ok (.nvRead (wordMid w))
  | 1 => .ok (.nvWrite (wordMid w) (wordLow w))
  | 2 => .ok (.nvErase (wordMid w))
  | _ => .ok (.nvErwr (wordMid w) (wordLow w))

/-- Format `FIC` (R108). -/
def decodeFic (w : BitVec 22) : Except Reject Instr :=
  .ok (.fiApply (wordTop w) (wordMid w) (wordLow w))

/-- Format `W8`: the three distinguished values (R101). What the value does depends on the receiver's phase
(R102), which is the meaning of the wire value. -/
def decodeW8 (r : Role) (b : Byte) : Except Reject Instr :=
  if b = Config.TOK_REQ then .ok (.tokReq r)
  else if b = Config.TOK_ACK then .ok (.tokAck r)
  else if b = Config.TERM then .ok (.term r)
  else .error (.plainByte r b)

/-- A byte at the head of `H2D` in `D_AWAIT` (R102, first two rows). -/
def decodeAwait : Option Byte → Except Reject Instr
  | none => .error .noneEnabled
  | some b => if b = Config.TOK_REQ then .ok .hsDReq else .ok (.hsDSkip b)

/-- A byte at the head of `H2D` in `D_RECV` with `N` bytes stored (R102, rows three to six). -/
def decodeRecv (n : Cnt) : Option Byte → Except Reject Instr
  | none => .error .noneEnabled
  | some b =>
    if b = Config.TERM then
      if n.toNat = 0 then .ok .dsRxEmpty else .ok .dsRxTerm
    else if n.toNat < Config.CAP then .ok (.dsRxData b)
    else if n.toNat = Config.CAP then .ok (.dsRxOver b)
    else .error .noneEnabled

/-- Format `SEQ`, device: the transition table of R109 and R220. -/
def decodeDev (w : DevWord) : Except Reject Instr :=
  match DPhase.ofCode w.phase with
  | .dErase =>
    if w.ea.toNat < Config.CAP then .ok .dsErase
    else if w.ea.toNat = Config.CAP then .ok .hsDArm
    else .error .noneEnabled
  | .dAwait => decodeAwait w.head
  | .dReply => .ok .hsDAck
  | .dRecv => decodeRecv w.n w.head
  | .dVerify => .ok .dsVerify
  | .dCommit => .ok .dsCommit
  | .dReadback =>
    if w.ri.toNat ≤ w.size.toNat then .ok .dsRbByte
    else if w.ri.toNat = w.size.toNat + 1 then .ok .dsRbTerm
    else .error .noneEnabled
  | .dFault => .error .noneEnabled

/-- An event before the HOST (R262, R230): its reaction where that is enabled; otherwise the event is lost. -/
def decodeHostEvent (ph : HPhase) (head : Option Byte) : HostEvent → Except Reject Instr
  | .start p fic =>
    if ph = .hIdle ∨ ph = .hDone ∨ ph = .hFailed then
      .ok (.lsStart p (wordTop fic) (wordMid fic) (wordLow fic))
    else .error .noneEnabled
  | .timeout =>
    if ph = .hAwait ∧ head = none then .ok .hsHTimeout
    else if ph = .hReadback ∧ head = none then .ok .lsRbTimeout
    else .error .noneEnabled
  | .linkfail =>
    if ph = .hReq ∨ ph = .hAwait ∨ ph = .hSend ∨ ph = .hReadback then .ok .lsLinkfail
    else .error .noneEnabled

/-- The HOST's own next step, no event raised (R110, R102, R230). -/
def decodeHostTurn (ph : HPhase) (rn : Cnt) (head : Option Byte) : Except Reject Instr :=
  match ph with
  | .hIdle => .error .noneEnabled
  | .hEncode => .ok .lsEncode
  | .hReq => .ok .hsHReq
  | .hAwait =>
    match head with
    | none => .error .noneEnabled
    | some b => if b = Config.TOK_ACK then .ok .hsHAck else .ok (.hsHNak b)
  | .hSend => .ok .lsTx
  | .hReadback =>
    match head with
    | none => .error .noneEnabled
    | some b =>
      if b = Config.TERM then .ok .lsRbTerm
      else if rn.toNat < Config.CAP then .ok (.lsRbData b)
      else if rn.toNat = Config.CAP then .ok (.lsRbOver b)
      else .error .noneEnabled
  | .hDone => .error .noneEnabled
  | .hFailed => .error .noneEnabled

/-- Format `SEQ`, host: the transition table of R110 and R230. -/
def decodeHost (w : HostWord) : Except Reject Instr :=
  match w.event with
  | some e => decodeHostEvent (HPhase.ofCode w.phase) w.head e
  | none => decodeHostTurn (HPhase.ofCode w.phase) w.rn w.head

/-- The receiver a wire value of the table stands before: TOK_ACK goes to the host, TOK_REQ to the device; TERM goes
both ways and is read here as the frame's terminator, before the device (log 12). -/
def wireReceiver (b : Byte) : Role := if b = Config.TOK_ACK then .host else .device

/-- A word of the table given as its bits, bit 0 the least significant. One byte is `W8`, up to two `CEC` (the
device's engine), more `NVC`; with bits set above the format's width it is no word of the format (log 12). -/
def decodeRaw (nbits w : Nat) : Except Reject Instr :=
  if nbits ≤ 8 then
    if w < 2 ^ 8 then decodeW8 (wireReceiver (BitVec.ofNat 8 w)) (BitVec.ofNat 8 w) else .error .wordTooWide
  else if nbits ≤ 16 then
    if w < 2 ^ 10 then decodeCec .device (BitVec.ofNat 10 w) else .error .wordTooWide
  else
    if w < 2 ^ 22 then decodeNvc (BitVec.ofNat 22 w) else .error .wordTooWide

/-- The decoder: the operation an encoding stands for, or the name of why it is none. -/
def decode : Encoding → Except Reject Instr
  | .cec r w => decodeCec r w
  | .nvc w => decodeNvc w
  | .fic w => decodeFic w
  | .w8 r b => decodeW8 r b
  | .dev w => decodeDev w
  | .host w => decodeHost w
  | .reset r => .ok (.reset r)
  | .payload p => if p.length ≤ Config.MAXPAY then .ok (.fcEncode p) else .error .payloadTooLong
  | .classify b => .ok (.fcClassify b)
  | .window w => .ok (.ivVerify w)
  | .raw nbits w => decodeRaw nbits w

/-- The operation the decoder reads from a table word (the host's name for it). -/
def decodeTableWord (nbits w : Nat) : Option Instr :=
  match decode (.raw nbits w) with
  | .ok i => some i
  | .error _ => none

/-! ## The encoder -/

/-- A `SEQ` device word in phase `p` with byte `h` at the head and every guard counter zero. -/
def devWordOf (p : DPhase) (h : Option Byte) : DevWord :=
  { phase := p.code, head := h, ea := 0, n := 0, size := 0, ri := 0 }

/-- A `SEQ` host word in phase `p` with byte `h` at the head, no byte collected, and event `e`. -/
def hostWordOf (p : HPhase) (h : Option Byte) (e : Option HostEvent) : HostWord :=
  { phase := p.code, head := h, rn := 0, event := e }

/-- `CAP` as a counter value. -/
def capCnt : Cnt := BitVec.ofNat 12 Config.CAP

/-- The encoder: an encoding of each operation. Data bits an operation ignores are 0; a sequencer operation is given
by a phase and guard values that select it (R109, R110). -/
def encode : Instr → Encoding
  | .crcClr r => .cec r ((0 : BitVec 2) ++ (0 : Byte))
  | .crcByte r b => .cec r ((1 : BitVec 2) ++ b)
  | .crcBit r => .cec r ((2 : BitVec 2) ++ (0 : Byte))
  | .nvRead a => .nvc (word22 0 a 0)
  | .nvWrite a b => .nvc (word22 1 a b)
  | .nvErase a => .nvc (word22 2 a 0)
  | .nvErwr a b => .nvc (word22 3 a b)
  | .fcEncode p => .payload p
  | .fcClassify b => .classify b
  | .fiApply m o v => .fic (word22 m o v)
  | .ivVerify w => .window w
  | .hsDArm => .dev { devWordOf .dErase none with ea := capCnt }
  | .hsDSkip b => .dev (devWordOf .dAwait (some b))
  | .hsDReq => .dev (devWordOf .dAwait (some Config.TOK_REQ))
  | .hsDAck => .dev (devWordOf .dReply none)
  | .hsHReq => .host (hostWordOf .hReq none none)
  | .hsHAck => .host (hostWordOf .hAwait (some Config.TOK_ACK) none)
  | .hsHNak b => .host (hostWordOf .hAwait (some b) none)
  | .hsHTimeout => .host (hostWordOf .hAwait none (some .timeout))
  | .dsErase => .dev (devWordOf .dErase none)
  | .dsRxData b => .dev (devWordOf .dRecv (some b))
  | .dsRxTerm => .dev { devWordOf .dRecv (some Config.TERM) with n := 1 }
  | .dsRxOver b => .dev { devWordOf .dRecv (some b) with n := capCnt }
  | .dsRxEmpty => .dev (devWordOf .dRecv (some Config.TERM))
  | .dsVerify => .dev (devWordOf .dVerify none)
  | .dsCommit => .dev (devWordOf .dCommit none)
  | .dsRbByte => .dev (devWordOf .dReadback none)
  | .dsRbTerm => .dev { devWordOf .dReadback none with ri := 1 }
  | .lsStart p m o v => .host (hostWordOf .hIdle none (some (.start p (word22 m o v))))
  | .lsEncode => .host (hostWordOf .hEncode none none)
  | .lsTx => .host (hostWordOf .hSend none none)
  | .lsRbData b => .host (hostWordOf .hReadback (some b) none)
  | .lsRbTerm => .host (hostWordOf .hReadback (some Config.TERM) none)
  | .lsRbOver b => .host { hostWordOf .hReadback (some b) none with rn := capCnt }
  | .lsRbTimeout => .host (hostWordOf .hReadback none (some .timeout))
  | .lsLinkfail => .host (hostWordOf .hSend none (some .linkfail))
  | .reset r => .reset r
  | .tokReq r => .w8 r Config.TOK_REQ
  | .tokAck r => .w8 r Config.TOK_ACK
  | .term r => .w8 r Config.TERM

end Sys2Proof
end

