-- ==== Sys2Proof/Machine/State.lean ====
section
/-! DEFINITION. The state of a system of one DEVICE instance, one HOST instance and the link (10_state.md R20), as
plain data, with the reasons a step can stop and the state right after power-on and reset (R49, R301). -/

namespace Sys2Proof.Machine

/-- The handshake state of either role (R25, R38); `failed` is the host's alone. -/
inductive HsState where
  | idle
  | awaitPeer
  | synced
  | failed
  deriving DecidableEq, Repr, Inhabited

/-- A cell's recent history (R61). -/
inductive CellTag where
  | unknown
  | erased
  | programmed
  deriving DecidableEq, Repr, Inhabited

/-- One NV cell (R22, R61). `held = none` says that no operation has replaced the byte the cell held at first
power-on, `NV0(a)` (log 5). -/
structure NvCell where
  held : Option Byte
  tag : CellTag
  deriving DecidableEq, Repr, Inhabited

/-- What an address that the list does not name reads as: a cell nothing has touched since power-on (R64, R301). -/
def untouched : NvCell := { held := none, tag := .unknown }

/-- The NV cell array as a list of (address, cell). -/
abbrev NvMem := List (Nat × NvCell)

/-- A byte buffer as a list of (index, byte); an index it does not name holds no value (R23, R40, R42, log 7). -/
abbrev Buf := List Host.Cell

/-- A diagnostic of the device (R36). -/
inductive Diag where
  | vstart
  | vpass
  | vfail
  deriving DecidableEq, Repr, Inhabited

/-- The class of a received byte (R172). -/
inductive FrameClass where
  | terminator
  | data
  deriving DecidableEq, Repr, Inhabited

/-- The verifier's result (R250). -/
inductive Verdict where
  | ok
  | corrupt
  deriving DecidableEq, Repr, Inhabited

/-- The answer of a stand-alone unit operation (log 3). -/
inductive Reply where
  /-- No answer. -/
  | none
  /-- A refused `NV.*` command (R156). -/
  | refused
  /-- The byte NV.READ returns (R152). -/
  | byte (b : Byte)
  /-- The result of FC.CLASSIFY (R172). -/
  | frameClass (c : FrameClass)
  /-- The result of IV.VERIFY (R250). -/
  | verdict (v : Verdict)
  deriving DecidableEq, Repr, Inhabited

/-- The error kinds that a sequencer raises (R261). ChecksumMismatch is reported, not raised, and has no code. -/
inductive ErrKind where
  | payloadTooLarge
  | emptyFrame
  | handshakeTimeout
  | handshakeMismatch
  | linkFailure
  | readbackOverrun
  | fiConfig
  deriving DecidableEq, Repr, Inhabited

/-- The DEVICE instance (R20). -/
structure DeviceInst where
  /-- `ACC`, the checksum accumulator (R21). -/
  acc : Byte
  /-- `NV` (R22). -/
  nv : NvMem
  /-- `BUF`, the working buffer (R23). -/
  buf : Buf
  /-- `DPHASE` (R24). -/
  phase : DPhase
  /-- `DHS` (R25). -/
  hs : HsState
  /-- `EA`, the erase-all address counter (R26). -/
  ea : Cnt
  /-- `N`, the count of bytes stored in this session (R27). -/
  n : Cnt
  /-- `SIZE`, the received payload length (R28). -/
  size : Cnt
  /-- `RI`, the readback address counter (R29). -/
  ri : Cnt
  /-- `CSUM`, the recomputed checksum (R30). -/
  csum : Byte
  /-- `VDONE` (R31). -/
  vdone : Bool
  /-- `VOK` (R31). -/
  vok : Bool
  /-- `DFAULT` (R32). -/
  dfault : BitVec 3
  /-- `NVFAULT` (R33). -/
  nvfault : Bool
  deriving DecidableEq, Repr, Inhabited

/-- The HOST instance (R20). -/
structure HostInst where
  /-- `ACC`, the checksum accumulator (R21). -/
  acc : Byte
  /-- `HPHASE` (R37). -/
  phase : HPhase
  /-- `HHS` (R38). -/
  hs : HsState
  /-- `PAYLOAD`, of any length; `PLEN` is its length (R39). -/
  payload : List Byte
  /-- `FRAME` (R40). -/
  frame : Buf
  /-- `FLEN` (R40). -/
  flen : Cnt
  /-- `TI`, the transmit index (R41). -/
  ti : Cnt
  /-- `RB`, the readback buffer (R42). -/
  rb : Buf
  /-- `RN`, its count (R42). -/
  rn : Cnt
  /-- `HFAULT` (R43). -/
  hfault : BitVec 3
  /-- `FI_MODE` (R44). -/
  fiMode : BitVec 2
  /-- `FI_OFFSET` (R44). -/
  fiOffset : Cnt
  /-- `FI_VALUE` (R44). -/
  fiValue : Byte
  deriving DecidableEq, Repr, Inhabited

/-- The whole state: R20's tuple, the output DIAG, and the model's own fields `reply`, `agenda`, `tick`. -/
structure State where
  /-- The DEVICE instance. -/
  dev : DeviceInst
  /-- The HOST instance. -/
  host : HostInst
  /-- `H2D`, head first (R46). -/
  h2d : List Byte
  /-- `D2H`, head first (R46). -/
  d2h : List Byte
  /-- `DIAG`: what the last step emitted, in order (R36, log 3). -/
  diag : List Diag
  /-- The answer of the last stand-alone unit operation (log 3). -/
  reply : Reply
  /-- The moves placed from outside that are still to come (log 1). -/
  agenda : List Move
  /-- How many moves the free schedule has given (log 1). -/
  tick : Nat
  deriving DecidableEq, Repr, Inhabited

/-- Why the machine stops. No state that a run from reset reaches through the sequencers raises one (R66, R80). -/
inductive Fault where
  /-- Raised by DS.VERIFY, DS.COMMIT: a read of `BUF` at an index nothing has written since reset, which the spec
  makes a model fault (R23, U6). Safe: the machine stops where hardware would read some byte. -/
  | bufUnwritten
  /-- Raised by LS.TX, FI.APPLY, LS.ENCODE: a read of `FRAME` at an index that holds no value: nothing has
  written it since reset, or the last FC.ENCODE ended below it (R40, R66, U6, log 7). Safe. -/
  | frameUnwritten
  /-- Raised by DS.RB.BYTE: its NV.READ is refused and returns no byte to send (R156, log 16). Safe. -/
  | readbackRefused
  deriving DecidableEq, Repr

/-- Why a step is given no meaning. -/
inductive Refusal where
  /-- Raised by exec's arm of an operation that has no meaning yet. Safe. -/
  | notModelled (mnemonic : String)
  /-- Raised by step: a bench command to a unit whose sequencer is running, to which the spec gives no meaning (R319,
  U12, log 10). Safe. -/
  | portInUse
  /-- Raised by FC.ENCODE: a payload longer than `MAXPAY`, outside the operand range the spec gives it (R171, log 15).
  Safe. -/
  | payloadTooLong
  deriving DecidableEq, Repr

/-- The DEVICE right after first power-on and RESET (R49, R300). -/
def DeviceInst.reset : DeviceInst where
  acc := Config.CRC_INIT
  nv := []
  buf := []
  phase := .dErase
  hs := .idle
  ea := 0
  n := 0
  size := 0
  ri := 0
  csum := 0x00
  vdone := false
  vok := false
  dfault := 0
  nvfault := false

/-- The HOST right after RESET (R49, R300). -/
def HostInst.reset : HostInst where
  acc := Config.CRC_INIT
  phase := .hIdle
  hs := .idle
  payload := []
  frame := []
  flen := 0
  ti := 0
  rb := []
  rn := 0
  hfault := 0
  fiMode := 0
  fiOffset := 0
  fiValue := 0x00

/-- The system right after first power-on: both instances reset, both channels empty (R301). -/
def State.reset : State where
  dev := DeviceInst.reset
  host := HostInst.reset
  h2d := []
  d2h := []
  diag := []
  reply := .none
  agenda := []
  tick := 0

end Sys2Proof.Machine
end

