-- ==== Sys2Proof/Machine/Ops.lean ====
section
/-! DEFINITION. The shared operations: tables, buffers, the four storage primitives, the checksum engine, the two
channels, taking an error (`raise`), and reset. -/

namespace Sys2Proof.Machine

/-! ## Tables: lists of (key, value), keys strictly rising -/

/-- The value a table lists at `a`. -/
def tabGet {α : Type} : List (Nat × α) → Nat → Option α
  | [], _ => none
  | (k, v) :: r, a => if k = a then some v else tabGet r a

/-- The table with `v` at `a`. -/
def tabSet {α : Type} : List (Nat × α) → Nat → α → List (Nat × α)
  | [], a, v => [(a, v)]
  | (k, w) :: r, a, v =>
    if a < k then (a, v) :: (k, w) :: r
    else if a = k then (a, v) :: r
    else (k, w) :: tabSet r a v

/-- The table without `a`. -/
def tabErase {α : Type} (m : List (Nat × α)) (a : Nat) : List (Nat × α) :=
  m.filter fun e => e.1 ≠ a

/-- Keys strictly rising. -/
abbrev Rising {α : Type} (m : List (Nat × α)) : Prop := m.Pairwise fun x y => x.1 < y.1

/-- Every key below `cap`. -/
abbrev KeysBelow {α : Type} (cap : Nat) (m : List (Nat × α)) : Prop := ∀ e ∈ m, e.1 < cap

/-- Canonical form of a byte buffer of capacity `cap`. -/
abbrev Buf.wf (cap : Nat) (m : Buf) : Prop := Rising m ∧ KeysBelow cap m

/-- Canonical form of the NV array: keys rising, inside `0 .. CAP-1`, no entry an unlisted address reads as. -/
abbrev NvMem.wf (m : NvMem) : Prop :=
  Rising m ∧ KeysBelow Config.CAP m ∧ ∀ e ∈ m, e.2 ≠ untouched

/-- Canonical form of all the memory of a state (R60). -/
abbrev Memory.wf (s : State) : Prop :=
  NvMem.wf s.dev.nv ∧ Buf.wf Config.CAP s.dev.buf ∧
    Buf.wf (Config.CAP + 1) s.host.frame ∧ Buf.wf Config.CAP s.host.rb

/-! ## Byte buffers (R23, R40, R42, R66) -/

/-- The bytes at indices `0 .. k-1`, if every one of them has been written. -/
def bufTake (m : Buf) : Nat → Option (List Byte)
  | 0 => some []
  | k + 1 =>
    match bufTake m k, tabGet m k with
    | some xs, some b => some (xs ++ [b])
    | _, _ => none

/-- A buffer holding `bs` from index `k` on and nothing else. -/
def bufFrom (k : Nat) : List Byte → Buf
  | [] => []
  | b :: bs => (k, b) :: bufFrom (k + 1) bs

/-! ## The NV array (41_nv_mirror.md) -/

/-- The cell at address `a` (R61). -/
def nvCell (m : NvMem) (a : Nat) : NvCell := (tabGet m a).getD untouched

/-- The byte a cell physically holds: `NV0(a)` where nothing has replaced it (R61, R64). -/
def cellVal (a : Nat) (c : NvCell) : Byte := c.held.getD (Config.nv0 a)

/-- `NV[a].val` (R22). -/
def nvVal (m : NvMem) (a : Nat) : Byte := cellVal a (nvCell m a)

/-- `NV[a].tag` (R22). -/
def nvTag (m : NvMem) (a : Nat) : CellTag := (nvCell m a).tag

/-- The array with cell `c` at `a`, in canonical form. -/
def nvPut (m : NvMem) (a : Nat) (c : NvCell) : NvMem :=
  if c = untouched then tabErase m a else tabSet m a c

/-- A cell holding byte `b` as programmed (R153, R155). -/
def programmedCell (b : Byte) : NvCell := { held := some b, tag := .programmed }

/-- An erased cell (R154). -/
def erasedCell : NvCell := { held := some Config.ERASED, tag := .erased }

/-- What a plain write of `b` leaves in cell `c` of address `a`: exact on an erased cell, `NV_OVERWRITE` otherwise
(R153). -/
def writtenCell (a : Nat) (c : NvCell) (b : Byte) : NvCell :=
  if c.tag = .erased then programmedCell b
  else programmedCell (Config.nvOverwrite (cellVal a c) b)

/-- Whether the controller refuses the address (R62, R156). -/
def nvRefuses (a : Cnt) : Bool := decide (Config.CAP ≤ a.toNat)

/-- A storage command that changes cell `a`: refused with `NVFAULT` outside `0 .. CAP-1`, else the cell becomes what
`f` makes of it (R153 to R156). -/
def nvChange (a : Cnt) (f : NvCell → NvCell) (d : DeviceInst) : DeviceInst :=
  if nvRefuses a then { d with nvfault := true }
  else { d with nv := nvPut d.nv a.toNat (f (nvCell d.nv a.toNat)) }

/-- `NVRead(a)`: the byte, or nothing where the controller refuses (R152). -/
def nvReadByte (a : Cnt) (d : DeviceInst) : Option Byte :=
  if nvRefuses a then none else some (nvVal d.nv a.toNat)

/-- What NV.READ does to the device: nothing, or `NVFAULT` on a refusal (R152, R156). -/
def nvReadEffect (a : Cnt) (d : DeviceInst) : DeviceInst :=
  if nvRefuses a then { d with nvfault := true } else d

/-- `NVWrite(a, b)` (R153). -/
def nvWriteByte (a : Cnt) (b : Byte) (d : DeviceInst) : DeviceInst :=
  nvChange a (fun c => writtenCell a.toNat c b) d

/-- `NVErase(a)` (R154). -/
def nvEraseCell (a : Cnt) (d : DeviceInst) : DeviceInst :=
  nvChange a (fun _ => erasedCell) d

/-- `NVEraseWrite(a, b)` (R155). -/
def nvEraseWrite (a : Cnt) (b : Byte) (d : DeviceInst) : DeviceInst :=
  nvChange a (fun _ => programmedCell b) d

/-- The array after RESET(DEVICE) or a power cycle: every tag `UNKNOWN`, every value kept (R22, R64, R300). -/
def nvForgetTags (m : NvMem) : NvMem :=
  (m.map fun e => (e.1, { e.2 with tag := CellTag.unknown })).filter fun e => e.2 ≠ untouched

/-! ## The checksum engine (40_checksum_engine.md) -/

/-- One `CRC.BIT` on the accumulator (R132). -/
def crcBit (acc : Byte) : Byte :=
  if acc.msb then (acc <<< 1) ^^^ Config.POLY else acc <<< 1

/-- Eight `CRC.BIT` steps: `T` of R137. -/
def crcShift8 (v : Byte) : Byte :=
  crcBit (crcBit (crcBit (crcBit (crcBit (crcBit (crcBit (crcBit v)))))))

/-- `CRC.BYTE b` on the accumulator (R133). -/
def crcByte (acc b : Byte) : Byte := crcShift8 (acc ^^^ b)

/-- `checksum(s)` (R134). -/
def checksum (s : List Byte) : Byte := s.foldl crcByte Config.CRC_INIT

/-- IV.VERIFY's result from the checksum of the window (R250). -/
def verdictOf (r : Byte) : Verdict := if r = 0x00 then .ok else .corrupt

/-! ## The codec and the injector (42_frame_codec_fault_injector.md) -/

/-- FC.CLASSIFY (R172). -/
def classify (b : Byte) : FrameClass := if b = Config.TERM then .terminator else .data

/-- The frame of a payload: `P ++ [checksum(P)] ++ [0x00]` (R103, R171). -/
def encodeFrame (p : List Byte) : List Byte := p ++ [checksum p] ++ [Config.TERM]

/-- FC.ENCODE on the host: `FRAME`, `FLEN`, and the engine's accumulator (R171, R134). DESIGN CHOICE (log 7): the new
frame replaces the whole buffer, so an entry at or above the new `FLEN` that an earlier, longer frame wrote holds no value
afterwards, where U6 lets it hold any. -/
def encodeInto (p : List Byte) (h : HostInst) : HostInst :=
  { h with acc := checksum p, frame := bufFrom 0 (encodeFrame p), flen := BitVec.ofNat 12 (p.length + 2) }

/-- The codes of `FI_MODE` (R108). -/
def fiOff : BitVec 2 := 0
/-- `FLIP` (R108). -/
def fiFlip : BitVec 2 := 1
/-- `REPLACE` (R108). -/
def fiReplace : BitVec 2 := 2

/-- Whether an injector configuration is legal for a frame of length `flen` (R177). -/
def fiLegal (mode : BitVec 2) (offset : Cnt) (value : Byte) (flen : Cnt) : Bool :=
  if mode = fiOff then true
  else if mode = fiFlip then decide (offset.toNat < flen.toNat) && (value != 0x00)
  else if mode = fiReplace then decide (offset.toNat < flen.toNat)
  else false

/-- FI.APPLY on `FRAME` under a legal configuration (R176); nothing where FLIP meets an entry never written. -/
def fiApplied (mode : BitVec 2) (offset : Cnt) (value : Byte) (frame : Buf) : Option Buf :=
  if mode = fiFlip then
    (tabGet frame offset.toNat).map fun old => tabSet frame offset.toNat (old ^^^ value)
  else if mode = fiReplace then some (tabSet frame offset.toNat value)
  else some frame

/-! ## The channels (R68, R69) -/

/-- `tx(H2D, b)`. -/
def txH2D (b : Byte) (s : State) : State := { s with h2d := s.h2d ++ [b] }

/-- `tx(D2H, b)`. -/
def txD2H (b : Byte) (s : State) : State := { s with d2h := s.d2h ++ [b] }

/-- `rx(H2D)`: the head byte leaves the channel. -/
def rxH2D (s : State) : State := { s with h2d := s.h2d.tail }

/-- `rx(D2H)`: the head byte leaves the channel. -/
def rxD2H (s : State) : State := { s with d2h := s.d2h.tail }

/-- A channel after the link or a foreign sender has acted on it (R68 `LINK_LOSS`, log 9). -/
def chanAfter : LinkAct → List Byte → List Byte
  | .drop _ k, l => l.eraseIdx k
  | .alter _ k b, l => l.set k b
  | .inject _ b, l => l ++ [b]

/-- The channel a link action is about. -/
def linkChan : LinkAct → Chan
  | .drop c _ => c
  | .alter c _ _ => c
  | .inject c _ => c

/-- A link action on the state (log 9). -/
def linkAct (a : LinkAct) (s : State) : State :=
  match linkChan a with
  | .h2d => { s with h2d := chanAfter a s.h2d }
  | .d2h => { s with d2h := chanAfter a s.d2h }

/-! ## Updates of one instance -/

/-- The state with another DEVICE instance. -/
def setDev (d : DeviceInst) (s : State) : State := { s with dev := d }

/-- The state with another HOST instance. -/
def setHost (h : HostInst) (s : State) : State := { s with host := h }

/-- The state with the answer of a stand-alone unit operation (log 3). -/
def setReply (r : Reply) (s : State) : State := { s with reply := r }

/-! ## Taking an error: `raise K` (R266, R267). There is no return operation (R268): LS.START leaves `H_FAILED`,
RESET leaves `D_FAULT`. -/

/-- The code of an error kind (R261). -/
def ErrKind.code : ErrKind → BitVec 3
  | .payloadTooLarge => 1
  | .emptyFrame => 2
  | .handshakeTimeout => 3
  | .handshakeMismatch => 4
  | .linkFailure => 5
  | .readbackOverrun => 6
  | .fiConfig => 7

/-- Device fault entry (R266). -/
def raiseDevice (k : ErrKind) (s : State) : State :=
  { s with dev := { s.dev with dfault := k.code, phase := .dFault } }

/-- Host failure entry (R267): the handshake state fails only for the two handshake kinds. -/
def raiseHost (k : ErrKind) (s : State) : State :=
  { s with host := { s.host with
      hfault := k.code
      hs := if k = .handshakeTimeout ∨ k = .handshakeMismatch then .failed else s.host.hs
      phase := .hFailed } }

/-! ## Reset and power (R300, R301) -/

/-- RESET(DEVICE): NV values stay, tags are forgotten, the rest as after power-on; the channels stay (R300). -/
def resetDevice (s : State) : State :=
  { s with dev := { DeviceInst.reset with nv := nvForgetTags s.dev.nv } }

/-- RESET(HOST) (R300). -/
def resetHost (s : State) : State := { s with host := HostInst.reset }

/-- Power off and on: nothing but the NV values persists (R64, R275, R301). -/
def powerCycle (s : State) : State :=
  { State.reset with
    dev := { DeviceInst.reset with nv := nvForgetTags s.dev.nv }
    agenda := s.agenda
    tick := s.tick }

end Sys2Proof.Machine
end

