-- ==== Sys2Proof/Machine/Flags.lean ====
section
/-! DEFINITION. Flags, status views and the observer's registers (10_state.md R31 to R34, R45, R47). -/

namespace Sys2Proof.Machine

/-- The 2-bit code of a handshake state (R111). -/
def HsState.code : HsState → BitVec 2
  | .idle => 0
  | .awaitPeer => 1
  | .synced => 2
  | .failed => 3

/-- The 2-bit code of a cell tag (R111). -/
def CellTag.code : CellTag → BitVec 2
  | .unknown => 0
  | .erased => 1
  | .programmed => 2

/-- `VOK` of a verdict (R111, R216). -/
def vokOf (v : Verdict) : Bool := v == .ok

/-- The diagnostics of a verification, in order (R216, R265). -/
def diagOf (v : Verdict) : List Diag :=
  [.vstart, if v = .ok then .vpass else .vfail]

/-- `DSTATUS` (R34): [2:0] `DPHASE`, [4:3] `DHS`, 5 `VDONE`, 6 `VOK`, 7 `FAULTED`. -/
def dstatus (s : State) : Byte :=
  BitVec.ofBool (s.dev.dfault != 0 || s.dev.nvfault) ++ BitVec.ofBool s.dev.vok ++ BitVec.ofBool s.dev.vdone ++
    s.dev.hs.code ++ s.dev.phase.code

/-- `HSTATUS` (R45): [2:0] `HPHASE`, [4:3] `HHS`, [6:5] zero, 7 `FAILED`. -/
def hstatus (s : State) : Byte :=
  BitVec.ofBool (s.host.hfault != 0) ++ (0 : BitVec 2) ++ s.host.hs.code ++ s.host.phase.code

/-- `PLEN` (R39). -/
def State.plen (s : State) : Nat := s.host.payload.length

/-- The value an observer reads in reference register `k` (R47). -/
def readRegister (k : Nat) (s : State) : Option Nat :=
  match k with
  | 0 => some (dstatus s).toNat
  | 1 => some s.dev.dfault.toNat
  | 2 => some s.dev.n.toNat
  | 3 => some s.dev.size.toNat
  | 4 => some s.dev.csum.toNat
  | 5 => some s.dev.ea.toNat
  | 6 => some s.dev.ri.toNat
  | 7 => some s.dev.acc.toNat
  | 8 => some (hstatus s).toNat
  | 9 => some s.host.hfault.toNat
  | 10 => some s.host.flen.toNat
  | 11 => some s.host.ti.toNat
  | 12 => some s.host.rn.toNat
  | 13 => some s.host.fiMode.toNat
  | 14 => some s.host.fiOffset.toNat
  | 15 => some s.host.fiValue.toNat
  | 16 => some s.host.acc.toNat
  | 17 => some s.plen
  | _ => none

end Sys2Proof.Machine
end

