-- ==== Sys2Proof/Machine/Operands.lean ====
section
/-! DEFINITION. Operand assembly (30_encoding.md R114) and the enabling conditions of the operations (the "Enabled
when" of 43_handshake.md and 44_link_session.md). -/

namespace Sys2Proof.Machine

/-- The window as received, `BUF[0..N]` (R175). -/
def rxWindow (d : DeviceInst) : Option (List Byte) := bufTake d.buf d.n.toNat

/-- The payload as received, `BUF[0..SIZE]` (R175). -/
def rxPayload (d : DeviceInst) : Option (List Byte) := bufTake d.buf d.size.toNat

/-- The next byte of the frame, `FRAME[TI]` (R224). -/
def txByte (h : HostInst) : Option Byte := tabGet h.frame h.ti.toNat

/-- The `SEQ` word of the device (R109). -/
def devWord (s : State) : DevWord :=
  { phase := s.dev.phase.code, head := s.h2d.head?, ea := s.dev.ea, n := s.dev.n, size := s.dev.size, ri := s.dev.ri }

/-- The `SEQ` word of the host, with the event raised, if any (R110). -/
def hostWord (e : Option HostEvent) (s : State) : HostWord :=
  { phase := s.host.phase.code, head := s.d2h.head?, rn := s.host.rn, event := e }

/-- The head of `H2D` is `b` and the device is in phase `p`. -/
def devSees (p : DPhase) (b : Byte) (s : State) : Bool := s.dev.phase == p && s.h2d.head? == some b

/-- The head of `D2H` is `b` and the host is in phase `p`. -/
def hostSees (p : HPhase) (b : Byte) (s : State) : Bool := s.host.phase == p && s.d2h.head? == some b

/-- Whether role `r` takes byte `b` from its incoming channel now (R102: the phases that take bytes). -/
def takes (r : Role) (b : Byte) (s : State) : Bool :=
  match r with
  | .device =>
    devSees .dAwait b s ||
      (devSees .dRecv b s && (b == Config.TERM || decide (s.dev.n.toNat ≤ Config.CAP)))
  | .host =>
    hostSees .hAwait b s ||
      (hostSees .hReadback b s && (b == Config.TERM || decide (s.host.rn.toNat ≤ Config.CAP)))

/-- Whether FI.APPLY may raise FiConfig: not on top of a failure (R268), and only before any byte of the frame has been
sent, since at FiConfig `TI` is 0 and nothing is transmitted (R177, R261, R269; log 14). -/
def fiMayRaise (h : HostInst) : Bool := h.phase != .hFailed && h.ti == 0

/-- The enabling condition of an operation, event aside (R192 to R199, R211 to R229). A unit operation and RESET are
always enabled, but for an injection that would raise FiConfig where that may not be raised (R268, R269, log 14); a wire
value when its receiver takes it. -/
def enabled (i : Instr) (s : State) : Bool :=
  match i with
  | .hsDArm => s.dev.phase == .dErase && decide (s.dev.ea.toNat = Config.CAP)
  | .hsDSkip b => devSees .dAwait b s && b != Config.TOK_REQ
  | .hsDReq => devSees .dAwait Config.TOK_REQ s
  | .hsDAck => s.dev.phase == .dReply
  | .hsHReq => s.host.phase == .hReq
  | .hsHAck => hostSees .hAwait Config.TOK_ACK s
  | .hsHNak b => hostSees .hAwait b s && b != Config.TOK_ACK
  | .hsHTimeout => s.host.phase == .hAwait && s.d2h.isEmpty
  | .dsErase => s.dev.phase == .dErase && decide (s.dev.ea.toNat < Config.CAP)
  | .dsRxData b => devSees .dRecv b s && b != Config.TERM && decide (s.dev.n.toNat < Config.CAP)
  | .dsRxTerm => devSees .dRecv Config.TERM s && decide (1 ≤ s.dev.n.toNat)
  | .dsRxOver b => devSees .dRecv b s && b != Config.TERM && decide (s.dev.n.toNat = Config.CAP)
  | .dsRxEmpty => devSees .dRecv Config.TERM s && decide (s.dev.n.toNat = 0)
  | .dsVerify => s.dev.phase == .dVerify
  | .dsCommit => s.dev.phase == .dCommit
  | .dsRbByte => s.dev.phase == .dReadback && decide (s.dev.ri.toNat ≤ s.dev.size.toNat)
  | .dsRbTerm => s.dev.phase == .dReadback && decide (s.dev.ri.toNat = s.dev.size.toNat + 1)
  | .lsStart _ _ _ _ => s.host.phase == .hIdle || s.host.phase == .hDone || s.host.phase == .hFailed
  | .lsEncode => s.host.phase == .hEncode
  | .lsTx => s.host.phase == .hSend
  | .lsRbData b => hostSees .hReadback b s && b != Config.TERM && decide (s.host.rn.toNat < Config.CAP)
  | .lsRbTerm => hostSees .hReadback Config.TERM s
  | .lsRbOver b => hostSees .hReadback b s && b != Config.TERM && decide (s.host.rn.toNat = Config.CAP)
  | .lsRbTimeout => s.host.phase == .hReadback && s.d2h.isEmpty
  | .lsLinkfail =>
    s.host.phase == .hReq || s.host.phase == .hAwait || s.host.phase == .hSend || s.host.phase == .hReadback
  | .tokReq r => takes r Config.TOK_REQ s
  | .tokAck r => takes r Config.TOK_ACK s
  | .term r => takes r Config.TERM s
  | .crcClr _ => true
  | .crcByte _ _ => true
  | .crcBit _ => true
  | .nvRead _ => true
  | .nvWrite _ _ => true
  | .nvErase _ => true
  | .nvErwr _ _ => true
  | .fcEncode _ => true
  | .fcClassify _ => true
  | .fiApply mode offset value => fiLegal mode offset value s.host.flen || fiMayRaise s.host
  | .ivVerify _ => true
  | .reset _ => true

/-- An operation that has an enabling condition: its effect where it is enabled; where it is not, the agent has no step
or the event is lost, and the state is unchanged (R11 blocked, R262, log 2). -/
def whenEnabled (i : Instr) (s : State) (effect : Host.Outcome State Fault Refusal) :
    Host.Outcome State Fault Refusal :=
  if enabled i s then effect else .next s

end Sys2Proof.Machine
end

