-- ==== Sys2Proof/Machine/Checksum.lean ====
section
/-! DEFINITION. The checksum engine's operations (40_checksum_engine.md), on the engine of either instance. -/

namespace Sys2Proof.Machine

/-- The accumulator of instance `r` (R21). -/
def accOf (r : Role) (s : State) : Byte :=
  match r with
  | .device => s.dev.acc
  | .host => s.host.acc

/-- The state with `v` in the accumulator of instance `r`. -/
def setAcc (r : Role) (v : Byte) (s : State) : State :=
  match r with
  | .device => setDev { s.dev with acc := v } s
  | .host => setHost { s.host with acc := v } s

/-- CRC.CLR (R131). -/
def execCrcClr (r : Role) (s : State) : Host.Outcome State Fault Refusal :=
  .next (setAcc r Config.CRC_INIT s)

/-- CRC.BYTE b (R133). -/
def execCrcByte (r : Role) (b : Byte) (s : State) : Host.Outcome State Fault Refusal :=
  .next (setAcc r (crcByte (accOf r s) b) s)

/-- CRC.BIT (R132). -/
def execCrcBit (r : Role) (s : State) : Host.Outcome State Fault Refusal :=
  .next (setAcc r (crcBit (accOf r s)) s)

end Sys2Proof.Machine
end

