-- ==== Sys2Proof/Machine/Codec.lean ====
section
/-! DEFINITION. The frame codec, the fault injector and the integrity verifier as units
(42_frame_codec_fault_injector.md, 45_integrity_verifier.md). -/

namespace Sys2Proof.Machine

/-- FC.ENCODE P (R171). A payload longer than `MAXPAY` is outside its operand range (log 15). -/
def execFcEncode (p : List Byte) (s : State) : Host.Outcome State Fault Refusal :=
  if p.length ≤ Config.MAXPAY then .next (setHost (encodeInto p s.host) s) else .refused .payloadTooLong

/-- FC.CLASSIFY b (R172): the class is the answer; nothing else changes. -/
def execFcClassify (b : Byte) (s : State) : Host.Outcome State Fault Refusal :=
  .next (setReply (.frameClass (classify b)) s)

/-- FI.APPLY on the host's `FRAME` (R176); an illegal configuration raises FiConfig (R177, log 14), but in
`H_FAILED` (R268) and once a byte of the frame has been sent (R269) it changes nothing. -/
def execFiApply (mode : BitVec 2) (offset : Cnt) (value : Byte) (s : State) : Host.Outcome State Fault Refusal :=
  whenEnabled (.fiApply mode offset value) s
    (if fiLegal mode offset value s.host.flen then
      match fiApplied mode offset value s.host.frame with
      | some f => .next (setHost { s.host with frame := f } s)
      | none => .fault .frameUnwritten
    else .next (raiseHost .fiConfig s))

/-- IV.VERIFY W on the device's engine (R250): `ACC` holds the checksum and the verdict is the answer. -/
def execIvVerify (w : List Byte) (s : State) : Host.Outcome State Fault Refusal :=
  .next (setReply (.verdict (verdictOf (checksum w))) (setDev { s.dev with acc := checksum w } s))

end Sys2Proof.Machine
end

