-- ==== Sys2Proof/Machine/Storage.lean ====
section
/-! DEFINITION. The storage controller's operations (41_nv_mirror.md), as issued on the command port. A refused
command completes: `NVFAULT` is set, no cell changes, and the answer is a refusal (R156, log 4). -/

namespace Sys2Proof.Machine

/-- The answer of a storage command at address `a`: a refusal, or `r` (R156). -/
def nvReply (a : Cnt) (r : Reply) : Reply := if nvRefuses a then .refused else r

/-- NV.READ a (R152). -/
def execNvRead (a : Cnt) (s : State) : Host.Outcome State Fault Refusal :=
  .next (setReply (nvReply a (.byte (nvVal s.dev.nv a.toNat))) (setDev (nvReadEffect a s.dev) s))

/-- NV.WRITE a, b (R153). -/
def execNvWrite (a : Cnt) (b : Byte) (s : State) : Host.Outcome State Fault Refusal :=
  .next (setReply (nvReply a .none) (setDev (nvWriteByte a b s.dev) s))

/-- NV.ERASE a (R154). -/
def execNvErase (a : Cnt) (s : State) : Host.Outcome State Fault Refusal :=
  .next (setReply (nvReply a .none) (setDev (nvEraseCell a s.dev) s))

/-- NV.ERWR a, b (R155). -/
def execNvErwr (a : Cnt) (b : Byte) (s : State) : Host.Outcome State Fault Refusal :=
  .next (setReply (nvReply a .none) (setDev (nvEraseWrite a b s.dev) s))

end Sys2Proof.Machine
end

