-- ==== Sys2Proof/Machine/DeviceLink.lean ====
section
/-! DEFINITION. The device role of the link sequencer (44_link_session.md, section 1). -/

namespace Sys2Proof.Machine

/-- DS.ERASE (R211): the cell at `EA` is erased and `EA` moves on. -/
def execDsErase (s : State) : Host.Outcome State Fault Refusal :=
  whenEnabled .dsErase s (.next (setDev { nvEraseCell s.dev.ea s.dev with ea := s.dev.ea + 1 } s))

/-- DS.RX.DATA b (R212): the byte goes to `NV[N]` by a plain write and to `BUF[N]`. -/
def execDsRxData (b : Byte) (s : State) : Host.Outcome State Fault Refusal :=
  whenEnabled (.dsRxData b) s
    (.next (setDev
      { nvWriteByte s.dev.n b s.dev with buf := tabSet s.dev.buf s.dev.n.toNat b, n := s.dev.n + 1 } (rxH2D s)))

/-- DS.RX.TERM (R213). -/
def execDsRxTerm (s : State) : Host.Outcome State Fault Refusal :=
  whenEnabled .dsRxTerm s (.next (setDev { s.dev with size := s.dev.n - 1, phase := .dVerify } (rxH2D s)))

/-- DS.RX.OVER b (R214): the byte is consumed, stored nowhere, and PayloadTooLarge raised. -/
def execDsRxOver (b : Byte) (s : State) : Host.Outcome State Fault Refusal :=
  whenEnabled (.dsRxOver b) s (.next (raiseDevice .payloadTooLarge (rxH2D s)))

/-- DS.RX.EMPTY (R215): EmptyFrame raised. -/
def execDsRxEmpty (s : State) : Host.Outcome State Fault Refusal :=
  whenEnabled .dsRxEmpty s (.next (raiseDevice .emptyFrame (rxH2D s)))

/-- DS.VERIFY (R216, R265): the verdict on the window goes to `VOK`, `VDONE` and `DIAG` and stops nothing (R251). -/
def execDsVerify (s : State) : Host.Outcome State Fault Refusal :=
  whenEnabled .dsVerify s
    (match rxWindow s.dev with
    | some w =>
      .next { s with
        dev := { s.dev with
          acc := checksum w, vok := vokOf (verdictOf (checksum w)), vdone := true, phase := .dCommit }
        diag := diagOf (verdictOf (checksum w)) }
    | none => .fault .bufUnwritten)

/-- DS.COMMIT (R217): the payload's checksum goes to `CSUM` and, by erase-write, to `NV[SIZE]`. -/
def execDsCommit (s : State) : Host.Outcome State Fault Refusal :=
  whenEnabled .dsCommit s
    (match rxPayload s.dev with
    | some q =>
      .next (setDev
        { nvEraseWrite s.dev.size (checksum q) s.dev with
          acc := checksum q, csum := checksum q, ri := 0, phase := .dReadback } s)
    | none => .fault .bufUnwritten)

/-- DS.RB.BYTE (R218): the byte comes from the mirror. A refused read leaves no byte to send (log 16). -/
def execDsRbByte (s : State) : Host.Outcome State Fault Refusal :=
  whenEnabled .dsRbByte s
    (match nvReadByte s.dev.ri s.dev with
    | some b => .next (txD2H b (setDev { s.dev with ri := s.dev.ri + 1 } s))
    | none => .fault .readbackRefused)

/-- DS.RB.TERM (R219): the terminator is sent and the device starts erasing again. -/
def execDsRbTerm (s : State) : Host.Outcome State Fault Refusal :=
  whenEnabled .dsRbTerm s (.next (txD2H Config.TERM (setDev { s.dev with phase := .dErase, ea := 0, hs := .idle } s)))

end Sys2Proof.Machine
end

