-- ==== Sys2Proof/Machine/Handshake.lean ====
section
/-! DEFINITION. The handshake operations of both roles (43_handshake.md). -/

namespace Sys2Proof.Machine

/-- HS.D_ARM (R192). -/
def execHsDArm (s : State) : Host.Outcome State Fault Refusal :=
  whenEnabled .hsDArm s (.next (setDev { s.dev with phase := .dAwait, hs := .awaitPeer } s))

/-- HS.D_SKIP b (R193). -/
def execHsDSkip (b : Byte) (s : State) : Host.Outcome State Fault Refusal :=
  whenEnabled (.hsDSkip b) s (.next (rxH2D s))

/-- HS.D_REQ (R194). -/
def execHsDReq (s : State) : Host.Outcome State Fault Refusal :=
  whenEnabled .hsDReq s (.next (setDev { s.dev with phase := .dReply } (rxH2D s)))

/-- HS.D_ACK (R195). -/
def execHsDAck (s : State) : Host.Outcome State Fault Refusal :=
  whenEnabled .hsDAck s
    (.next (txD2H Config.TOK_ACK
      (setDev { s.dev with hs := .synced, phase := .dRecv, n := 0, size := 0, vdone := false, vok := false } s)))

/-- HS.H_REQ (R196). -/
def execHsHReq (s : State) : Host.Outcome State Fault Refusal :=
  whenEnabled .hsHReq s (.next (txH2D Config.TOK_REQ (setHost { s.host with hs := .awaitPeer, phase := .hAwait } s)))

/-- HS.H_ACK (R197). -/
def execHsHAck (s : State) : Host.Outcome State Fault Refusal :=
  whenEnabled .hsHAck s (.next (setHost { s.host with hs := .synced, phase := .hSend, ti := 0 } (rxD2H s)))

/-- HS.H_NAK b (R198): the byte is consumed and HandshakeMismatch raised. -/
def execHsHNak (b : Byte) (s : State) : Host.Outcome State Fault Refusal :=
  whenEnabled (.hsHNak b) s (.next (raiseHost .handshakeMismatch (rxD2H s)))

/-- HS.H_TIMEOUT (R199). -/
def execHsHTimeout (s : State) : Host.Outcome State Fault Refusal :=
  whenEnabled .hsHTimeout s (.next (raiseHost .handshakeTimeout s))

end Sys2Proof.Machine
end

