-- ==== Sys2Proof/Machine/HostLink.lean ====
section
/-! DEFINITION. The host role of the link sequencer (44_link_session.md, section 2). -/

namespace Sys2Proof.Machine

/-- LS.START(P, FI) (R222); ignored while an attempt runs. -/
def execLsStart (p : List Byte) (mode : BitVec 2) (offset : Cnt) (value : Byte) (s : State) :
    Host.Outcome State Fault Refusal :=
  whenEnabled (.lsStart p mode offset value) s
    (.next (setHost
      { s.host with
        payload := p, fiMode := mode, fiOffset := offset, fiValue := value, hfault := 0, hs := .idle, ti := 0, rn := 0,
        flen := 0, phase := .hEncode } s))

/-- LS.ENCODE (R223): the length test first, then the frame, then the injector where it is on. -/
def execLsEncode (s : State) : Host.Outcome State Fault Refusal :=
  whenEnabled .lsEncode s
    (if Config.CAP ≤ s.plen then .next (raiseHost .payloadTooLarge s)
    else
      let e := encodeInto s.host.payload s.host
      if s.host.fiMode = fiOff then .next (setHost { e with phase := .hReq } s)
      else if fiLegal s.host.fiMode s.host.fiOffset s.host.fiValue e.flen then
        match fiApplied s.host.fiMode s.host.fiOffset s.host.fiValue e.frame with
        | some f => .next (setHost { e with frame := f, phase := .hReq } s)
        | none => .fault .frameUnwritten
      else .next (raiseHost .fiConfig (setHost e s)))

/-- LS.TX (R224): the test for the end uses the incremented `TI`. -/
def execLsTx (s : State) : Host.Outcome State Fault Refusal :=
  whenEnabled .lsTx s
    (match txByte s.host with
    | some b =>
      .next (txH2D b (setHost
        { s.host with
          ti := s.host.ti + 1, phase := if s.host.ti + 1 = s.host.flen then .hReadback else s.host.phase } s))
    | none => .fault .frameUnwritten)

/-- LS.RB.DATA b (R225). -/
def execLsRbData (b : Byte) (s : State) : Host.Outcome State Fault Refusal :=
  whenEnabled (.lsRbData b) s
    (.next (setHost { s.host with rb := tabSet s.host.rb s.host.rn.toNat b, rn := s.host.rn + 1 } (rxD2H s)))

/-- LS.RB.TERM (R226). -/
def execLsRbTerm (s : State) : Host.Outcome State Fault Refusal :=
  whenEnabled .lsRbTerm s (.next (setHost { s.host with phase := .hDone } (rxD2H s)))

/-- LS.RB.OVER b (R227): the byte is consumed, stored nowhere, and ReadbackOverrun raised. -/
def execLsRbOver (b : Byte) (s : State) : Host.Outcome State Fault Refusal :=
  whenEnabled (.lsRbOver b) s (.next (raiseHost .readbackOverrun (rxD2H s)))

/-- LS.RB.TIMEOUT (R228). -/
def execLsRbTimeout (s : State) : Host.Outcome State Fault Refusal :=
  whenEnabled .lsRbTimeout s (.next (raiseHost .linkFailure s))

/-- LS.LINKFAIL (R229). -/
def execLsLinkfail (s : State) : Host.Outcome State Fault Refusal :=
  whenEnabled .lsLinkfail s (.next (raiseHost .linkFailure s))

end Sys2Proof.Machine
end

