-- ==== Sys2Proof/Machine/Wire.lean ====
section
/-! DEFINITION. The wire values (30_encoding.md R101, R102) and the event RESET (70_reset_and_hazards.md R300). -/

namespace Sys2Proof.Machine

/-- Byte `b` at the head of `H2D`, taken by the DEVICE as its phase decodes it; in a phase that takes no byte it
stays in the channel (R102, device rows). -/
def deviceTakes (b : Byte) (s : State) : Host.Outcome State Fault Refusal :=
  match s.dev.phase with
  | .dAwait => if b = Config.TOK_REQ then execHsDReq s else execHsDSkip b s
  | .dRecv =>
    if b = Config.TERM then
      if s.dev.n.toNat = 0 then execDsRxEmpty s else execDsRxTerm s
    else if s.dev.n.toNat < Config.CAP then execDsRxData b s
    else execDsRxOver b s
  | .dErase => .next s
  | .dReply => .next s
  | .dVerify => .next s
  | .dCommit => .next s
  | .dReadback => .next s
  | .dFault => .next s

/-- Byte `b` at the head of `D2H`, taken by the HOST as its phase decodes it; in a phase that takes no byte it stays
in the channel (R102, host rows). -/
def hostTakes (b : Byte) (s : State) : Host.Outcome State Fault Refusal :=
  match s.host.phase with
  | .hAwait => if b = Config.TOK_ACK then execHsHAck s else execHsHNak b s
  | .hReadback =>
    if b = Config.TERM then execLsRbTerm s
    else if s.host.rn.toNat < Config.CAP then execLsRbData b s
    else execLsRbOver b s
  | .hIdle => .next s
  | .hEncode => .next s
  | .hReq => .next s
  | .hSend => .next s
  | .hDone => .next s
  | .hFailed => .next s

/-- Byte `b` before role `r` (R102). -/
def roleTakes (r : Role) (b : Byte) (s : State) : Host.Outcome State Fault Refusal :=
  match r with
  | .device => deviceTakes b s
  | .host => hostTakes b s

/-- TOK_REQ before role `r` (R101, log 13). -/
def execTokReq (r : Role) (s : State) : Host.Outcome State Fault Refusal := roleTakes r Config.TOK_REQ s

/-- TOK_ACK before role `r` (R101, log 13). -/
def execTokAck (r : Role) (s : State) : Host.Outcome State Fault Refusal := roleTakes r Config.TOK_ACK s

/-- TERM before role `r` (R101, log 13). -/
def execTerm (r : Role) (s : State) : Host.Outcome State Fault Refusal := roleTakes r Config.TERM s

/-- RESET(inst) (R300). -/
def execReset (r : Role) (s : State) : Host.Outcome State Fault Refusal :=
  match r with
  | .device => .next (resetDevice s)
  | .host => .next (resetHost s)

end Sys2Proof.Machine
end

