-- ==== Sys2Proof/Machine/Dispatch.lean ====
section
/-! DEFINITION. The dispatch: one arm a constructor of Instr, in the order of opcode_table.json. -/

namespace Sys2Proof.Machine

/-- The meaning of each operation. -/
def exec (i : Instr) (s : State) : Host.Outcome State Fault Refusal :=
  match i with
  | .crcClr r => Sys2Proof.Machine.execCrcClr r s
  | .crcByte r b => Sys2Proof.Machine.execCrcByte r b s
  | .crcBit r => Sys2Proof.Machine.execCrcBit r s
  | .nvRead a => Sys2Proof.Machine.execNvRead a s
  | .nvWrite a b => Sys2Proof.Machine.execNvWrite a b s
  | .nvErase a => Sys2Proof.Machine.execNvErase a s
  | .nvErwr a b => Sys2Proof.Machine.execNvErwr a b s
  | .fcEncode p => Sys2Proof.Machine.execFcEncode p s
  | .fcClassify b => Sys2Proof.Machine.execFcClassify b s
  | .fiApply mode offset value => Sys2Proof.Machine.execFiApply mode offset value s
  | .ivVerify w => Sys2Proof.Machine.execIvVerify w s
  | .hsDArm => Sys2Proof.Machine.execHsDArm s
  | .hsDSkip b => Sys2Proof.Machine.execHsDSkip b s
  | .hsDReq => Sys2Proof.Machine.execHsDReq s
  | .hsDAck => Sys2Proof.Machine.execHsDAck s
  | .hsHReq => Sys2Proof.Machine.execHsHReq s
  | .hsHAck => Sys2Proof.Machine.execHsHAck s
  | .hsHNak b => Sys2Proof.Machine.execHsHNak b s
  | .hsHTimeout => Sys2Proof.Machine.execHsHTimeout s
  | .dsErase => Sys2Proof.Machine.execDsErase s
  | .dsRxData b => Sys2Proof.Machine.execDsRxData b s
  | .dsRxTerm => Sys2Proof.Machine.execDsRxTerm s
  | .dsRxOver b => Sys2Proof.Machine.execDsRxOver b s
  | .dsRxEmpty => Sys2Proof.Machine.execDsRxEmpty s
  | .dsVerify => Sys2Proof.Machine.execDsVerify s
  | .dsCommit => Sys2Proof.Machine.execDsCommit s
  | .dsRbByte => Sys2Proof.Machine.execDsRbByte s
  | .dsRbTerm => Sys2Proof.Machine.execDsRbTerm s
  | .lsStart p mode offset value => Sys2Proof.Machine.execLsStart p mode offset value s
  | .lsEncode => Sys2Proof.Machine.execLsEncode s
  | .lsTx => Sys2Proof.Machine.execLsTx s
  | .lsRbData b => Sys2Proof.Machine.execLsRbData b s
  | .lsRbTerm => Sys2Proof.Machine.execLsRbTerm s
  | .lsRbOver b => Sys2Proof.Machine.execLsRbOver b s
  | .lsRbTimeout => Sys2Proof.Machine.execLsRbTimeout s
  | .lsLinkfail => Sys2Proof.Machine.execLsLinkfail s
  | .reset r => Sys2Proof.Machine.execReset r s
  | .tokReq r => Sys2Proof.Machine.execTokReq r s
  | .tokAck r => Sys2Proof.Machine.execTokAck r s
  | .term r => Sys2Proof.Machine.execTerm r s

end Sys2Proof.Machine
end

