-- ==== Sys2Proof/Machine/Fetch.lean ====
section
/-! DEFINITION. Which move comes next and what it fetches (00_scope.md R7, 60_exceptions.md R262, R264,
70_reset_and_hazards.md R319). -/

namespace Sys2Proof.Machine

/-- The move that comes next: the head of the agenda, or a free choice (R7, U15, log 1). -/
def nextMove (s : State) : Move :=
  match s.agenda with
  | m :: _ => m
  | [] => Config.schedule s.tick

/-- The state in which the move is made: the agenda or the counter has moved on, and the outputs of the step before
are gone (R36, log 3). -/
def beginMove (s : State) : State :=
  match s.agenda with
  | _ :: rest => { s with agenda := rest, diag := [], reply := .none }
  | [] => { s with tick := s.tick + 1, diag := [], reply := .none }

/-- The encoding a move fetches: a turn the sequencer's `SEQ` word, an event the host's `SEQ` word with the event, a
bench command its own word. Link moves and power cycles fetch nothing. -/
def fetched (m : Move) (s : State) : Option Encoding :=
  match m with
  | .turn .device => some (.dev (devWord s))
  | .turn .host => some (.host (hostWord none s))
  | .event (.reset r) => some (.reset r)
  | .event (.host e) => some (.host (hostWord (some e) s))
  | .bench e => some e
  | .link _ => none
  | .powerCycle => none

/-- Whether the device sequencer is running: it has begun its erase pass or is beyond it, and is not parked. Its
storage controller then takes no command from the port (R319, U12, log 10). -/
def deviceRunning (s : State) : Bool :=
  !(s.dev.phase == .dFault || (s.dev.phase == .dErase && s.dev.ea == 0))

/-- Whether a host session attempt is under way: started, and neither done nor failed (R222, log 10). -/
def hostRunning (s : State) : Bool :=
  !(s.host.phase == .hIdle || s.host.phase == .hDone || s.host.phase == .hFailed)

/-- Whether the port has no meaning for operation `i` as a bench command in this state (R319, log 10). -/
def portBars (i : Instr) (s : State) : Bool :=
  match i with
  | .crcClr _ => false
  | .crcByte _ _ => false
  | .crcBit _ => false
  | .nvRead _ => deviceRunning s
  | .nvWrite _ _ => deviceRunning s
  | .nvErase _ => deviceRunning s
  | .nvErwr _ _ => deviceRunning s
  | .fcEncode _ => hostRunning s
  | .fcClassify _ => false
  | .fiApply _ _ _ => hostRunning s
  | .ivVerify _ => false
  | .hsDArm => false
  | .hsDSkip _ => false
  | .hsDReq => false
  | .hsDAck => false
  | .hsHReq => false
  | .hsHAck => false
  | .hsHNak _ => false
  | .hsHTimeout => false
  | .dsErase => false
  | .dsRxData _ => false
  | .dsRxTerm => false
  | .dsRxOver _ => false
  | .dsRxEmpty => false
  | .dsVerify => false
  | .dsCommit => false
  | .dsRbByte => false
  | .dsRbTerm => false
  | .lsStart _ _ _ _ => false
  | .lsEncode => false
  | .lsTx => false
  | .lsRbData _ => false
  | .lsRbTerm => false
  | .lsRbOver _ => false
  | .lsRbTimeout => false
  | .lsLinkfail => false
  | .reset _ => false
  | .tokReq _ => false
  | .tokAck _ => false
  | .term _ => false

/-- Whether move `m` is barred from running `i` (R319). -/
def barred (m : Move) (i : Instr) (s : State) : Bool :=
  match m with
  | .bench _ => portBars i s
  | .turn _ => false
  | .event _ => false
  | .link _ => false
  | .powerCycle => false

/-- The state after a move that fetches nothing (log 9, log 20). -/
def unfetched (m : Move) (s : State) : State :=
  match m with
  | .link a => linkAct a s
  | .powerCycle => powerCycle s
  | .turn _ => s
  | .event _ => s
  | .bench _ => s

/-- What a step does where the encoding is no row of the table: a byte of data does what its receiver's phase decodes
it to (R101, R102); a blocked agent, a lost event and the reserved `CEC` code leave the state alone (R11, R115, R262,
log 2), and so does a word with bits that no line of the port carries (log 12). -/
def rejected (r : Reject) (s : State) : Host.Outcome State Fault Refusal :=
  match r with
  | .noneEnabled => .next s
  | .cecReserved => .next s
  | .plainByte r b => roleTakes r b s
  | .wordTooWide => .next s
  | .payloadTooLong => .refused .payloadTooLong

end Sys2Proof.Machine
end

