-- ==== Sys2Proof/Machine/Step.lean ====
section
/-! DEFINITION. One step: the next move is taken from the agenda (or freely), its encoding fetched and decoded, and the
operation executed. -/

namespace Sys2Proof.Machine

/-- Move `m` made in state `s`. -/
def makeMove (m : Move) (s : State) : Host.Outcome State Fault Refusal :=
  match fetched m s with
  | none => .next (unfetched m s)
  | some e =>
    match decode e with
    | .ok i => if barred m i s then .refused .portInUse else exec i s
    | .error r => rejected r s

/-- One step of the system (R7). -/
def step (s : State) : Host.Outcome State Fault Refusal := makeMove (nextMove s) (beginMove s)

/-- The state with a table word placed where step fetches next: at the head of the agenda, as a bench command. -/
def State.withFetchWord (s : State) (nbits w : Nat) : State :=
  { s with agenda := .bench (.raw nbits w) :: s.agenda }

end Sys2Proof.Machine
end

