-- ==== Sys2Proof/Safety.lean ====
section
/-! DEFINITION. What a good state is (the ranges, correspondences and mirror invariants of 10_state.md, 20_memory.md,
43_handshake.md and 60_exceptions.md), and runs of moves, in the terms the statements use. -/

namespace Sys2Proof.Machine

/-! ## Good states -/

/-- The handshake state that goes with a DEVICE phase (R25, R191); both device faults arise in `D_RECV`. -/
def hsOfDPhase : DPhase → HsState
  | .dErase => .idle
  | .dAwait => .awaitPeer
  | .dReply => .awaitPeer
  | .dRecv => .synced
  | .dVerify => .synced
  | .dCommit => .synced
  | .dReadback => .synced
  | .dFault => .synced

/-- The phases in which a window has been or is being received (R63). -/
def windowOpen : DPhase → Bool
  | .dErase => false
  | .dAwait => false
  | .dReply => false
  | .dRecv => true
  | .dVerify => true
  | .dCommit => true
  | .dReadback => true
  | .dFault => false

/-- The phases after the terminator of a window (R28). -/
def windowClosed : DPhase → Bool
  | .dErase => false
  | .dAwait => false
  | .dReply => false
  | .dRecv => false
  | .dVerify => true
  | .dCommit => true
  | .dReadback => true
  | .dFault => false

/-- Every cell from `lo` up to, not including, `hi` is erased (R61, R80). -/
def erasedFrom (m : NvMem) (lo hi : Nat) : Prop := ∀ a, lo ≤ a → a < hi → nvCell m a = erasedCell

/-- The first `k` cells are programmed with the first `k` entries of `BUF`, none of them the terminator (R65, R172). -/
def mirrored (d : DeviceInst) (k : Nat) : Prop :=
  ∀ i, i < k → ∃ b, tabGet d.buf i = some b ∧ b ≠ Config.TERM ∧ nvCell d.nv i = programmedCell b

/-- A good DEVICE: memory in canonical form, counters in range, handshake state and fault code as the phase says, and
the mirror as 20_memory.md R65, R80 and R81 say. -/
structure DeviceGood (d : DeviceInst) : Prop where
  nvForm : NvMem.wf d.nv
  bufForm : Buf.wf Config.CAP d.buf
  eaRange : d.ea.toNat ≤ Config.CAP
  nRange : d.n.toNat ≤ Config.CAP
  sizeRange : d.size.toNat < Config.CAP
  hsPhase : d.hs = hsOfDPhase d.phase
  faultPhase : d.phase = .dFault ↔ d.dfault ≠ 0
  faultCode : d.dfault.toNat ≤ 2
  sizeOfN : windowClosed d.phase = true → d.n.toNat = d.size.toNat + 1
  riRange : d.phase = .dReadback → d.ri.toNat ≤ d.size.toNat + 1
  erasing : d.phase = .dErase → erasedFrom d.nv 0 d.ea.toNat
  armed : d.phase = .dAwait ∨ d.phase = .dReply → erasedFrom d.nv 0 Config.CAP
  aboveWindow : windowOpen d.phase = true → erasedFrom d.nv d.n.toNat Config.CAP
  bufWritten : windowOpen d.phase = true → ∀ i, i < d.n.toNat → (tabGet d.buf i).isSome = true
  received : windowOpen d.phase = true → d.phase ≠ .dReadback → mirrored d d.n.toNat
  committed : d.phase = .dReadback →
    mirrored d d.size.toNat ∧ nvCell d.nv d.size.toNat = programmedCell d.csum ∧
      (rxPayload d).map checksum = some d.csum

/-- Whether `hs` is the handshake state that goes with a HOST phase and fault code: in `H_FAILED` it is `FAILED` exactly
for the two handshake kinds (R191, R267, R268). -/
def hostHsGood (h : HostInst) : Prop :=
  match h.phase with
  | .hIdle => h.hs = .idle
  | .hEncode => h.hs = .idle
  | .hReq => h.hs = .idle
  | .hAwait => h.hs = .awaitPeer
  | .hSend => h.hs = .synced
  | .hReadback => h.hs = .synced
  | .hDone => h.hs = .synced
  | .hFailed => h.hs = .failed ↔ h.hfault = 3 ∨ h.hfault = 4

/-- The phases of an attempt after its LS.ENCODE has succeeded (R40). -/
def frameReady : HPhase → Bool
  | .hIdle => false
  | .hEncode => false
  | .hReq => true
  | .hAwait => true
  | .hSend => true
  | .hReadback => true
  | .hDone => false
  | .hFailed => false

/-- The phases in which no byte of the attempt's frame has been sent (R269). -/
def frameUnsent : HPhase → Bool
  | .hIdle => true
  | .hEncode => true
  | .hReq => true
  | .hAwait => true
  | .hSend => false
  | .hReadback => false
  | .hDone => false
  | .hFailed => false

/-- A good HOST: memory in canonical form, counters in range, handshake state and fault code as the phase says, the
frame written as far as `FLEN` (R40, R41, R42, R43, R66), and `TI` as R269 says: 0 until the frame is sent and at the
failures that come before that. -/
structure HostGood (h : HostInst) : Prop where
  frameForm : Buf.wf (Config.CAP + 1) h.frame
  rbForm : Buf.wf Config.CAP h.rb
  rnRange : h.rn.toNat ≤ Config.CAP
  flenRange : h.flen.toNat ≤ Config.CAP + 1
  hsPhase : hostHsGood h
  faultPhase : h.phase = .hFailed ↔ h.hfault ≠ 0
  faultCode : h.hfault ≠ 2
  frameLength : frameReady h.phase = true → h.flen.toNat = h.payload.length + 2
  frameWritten : frameReady h.phase = true → ∀ i, i < h.flen.toNat → (tabGet h.frame i).isSome = true
  sending : h.phase = .hSend → h.ti.toNat < h.flen.toNat
  rbWritten : ∀ i, i < h.rn.toNat → ∃ b, tabGet h.rb i = some b ∧ b ≠ Config.TERM
  unsent : frameUnsent h.phase = true → h.ti = 0
  sent : h.phase = .hReadback ∨ h.phase = .hDone → h.ti ≠ 0
  precise : h.hfault = 1 ∨ h.hfault = 3 ∨ h.hfault = 4 ∨ h.hfault = 7 → h.ti = 0

/-- A good state: both instances good. The channels may hold anything. -/
structure Good (s : State) : Prop where
  dev : DeviceGood s.dev
  host : HostGood s.host

/-! ## The operations by agent -/

/-- The transitions of the DEVICE sequencer (R109). -/
def isDeviceOp : Instr → Bool
  | .hsDArm | .hsDSkip _ | .hsDReq | .hsDAck | .dsErase | .dsRxData _ | .dsRxTerm | .dsRxOver _ | .dsRxEmpty
  | .dsVerify | .dsCommit | .dsRbByte | .dsRbTerm => true
  | .hsHReq | .hsHAck | .hsHNak _ | .hsHTimeout | .lsStart _ _ _ _ | .lsEncode | .lsTx | .lsRbData _ | .lsRbTerm
  | .lsRbOver _ | .lsRbTimeout | .lsLinkfail => false
  | .crcClr _ | .crcByte _ _ | .crcBit _ | .nvRead _ | .nvWrite _ _ | .nvErase _ | .nvErwr _ _ | .fcEncode _
  | .fcClassify _ | .fiApply _ _ _ | .ivVerify _ | .reset _ | .tokReq _ | .tokAck _ | .term _ => false

/-- The transitions of the HOST sequencer that no event triggers (R110). -/
def isHostOp : Instr → Bool
  | .hsHReq | .hsHAck | .hsHNak _ | .lsEncode | .lsTx | .lsRbData _ | .lsRbTerm | .lsRbOver _ => true
  | .hsHTimeout | .lsStart _ _ _ _ | .lsRbTimeout | .lsLinkfail => false
  | .hsDArm | .hsDSkip _ | .hsDReq | .hsDAck | .dsErase | .dsRxData _ | .dsRxTerm | .dsRxOver _ | .dsRxEmpty
  | .dsVerify | .dsCommit | .dsRbByte | .dsRbTerm => false
  | .crcClr _ | .crcByte _ _ | .crcBit _ | .nvRead _ | .nvWrite _ _ | .nvErase _ | .nvErwr _ _ | .fcEncode _
  | .fcClassify _ | .fiApply _ _ _ | .ivVerify _ | .reset _ | .tokReq _ | .tokAck _ | .term _ => false

/-- The reactions of the HOST to the environment's events (R262). -/
def isHostReaction : Instr → Bool
  | .hsHTimeout | .lsStart _ _ _ _ | .lsRbTimeout | .lsLinkfail => true
  | .hsHReq | .hsHAck | .hsHNak _ | .lsEncode | .lsTx | .lsRbData _ | .lsRbTerm | .lsRbOver _ => false
  | .hsDArm | .hsDSkip _ | .hsDReq | .hsDAck | .dsErase | .dsRxData _ | .dsRxTerm | .dsRxOver _ | .dsRxEmpty
  | .dsVerify | .dsCommit | .dsRbByte | .dsRbTerm => false
  | .crcClr _ | .crcByte _ _ | .crcBit _ | .nvRead _ | .nvWrite _ _ | .nvErase _ | .nvErwr _ _ | .fcEncode _
  | .fcClassify _ | .fiApply _ _ _ | .ivVerify _ | .reset _ | .tokReq _ | .tokAck _ | .term _ => false

/-- Whether `i` is a reaction of the HOST to event `e` (R222, R199, R228, R229). -/
def reactsTo (e : HostEvent) (i : Instr) : Prop :=
  match e with
  | .start p fic => i = .lsStart p (wordTop fic) (wordMid fic) (wordLow fic)
  | .timeout => i = .hsHTimeout ∨ i = .lsRbTimeout
  | .linkfail => i = .lsLinkfail

/-- A move of a sequencer or of the environment, as against the bench, the link and the power switch. -/
def isOrdinary : Move → Bool
  | .turn _ => true
  | .event _ => true
  | .bench _ => false
  | .link _ => false
  | .powerCycle => false

/-! ## Runs -/

/-- The moves made one after the other, stopping at the first fault or refusal. The outputs are those of the last step
that produced one. -/
def runMoves : List Move → State → Host.Outcome State Fault Refusal
  | [], s => .next s
  | m :: ms, s =>
    match makeMove m s with
    | .next t => runMoves ms t
    | .fault f => .fault f
    | .refused r => .refused r

/-- `k` turns of role `r`. -/
def turns (r : Role) (k : Nat) : List Move := List.replicate k (.turn r)

/-- One schedule of a whole clean session with a payload of length `l`, the device armed (R210, R221, R232). -/
def sessionMoves (p : List Byte) : List Move :=
  [.event (.host (.start p 0))] ++ turns .host 2 ++ turns .device 2 ++ turns .host (p.length + 3) ++
    turns .device (2 * p.length + 6) ++ turns .host (p.length + 2) ++ turns .device (Config.CAP + 1)

end Sys2Proof.Machine
end

