-- ==== Sys2Proof/Certificates/Slice0/Obligations.lean ====
section
/-! DEFINITION. The statements for the provers, from the numbered rules of spec/. A result statement gives the whole
next state: what it does not write is unchanged. Where a form writes memory, the statement says through one read what
every cell or entry holds afterwards. -/

open Sys2Proof Sys2Proof.Machine

/-! ## The checksum engine -/

/-- R132: the code, and one `CRC.BIT` step; the test uses bit 7 before the shift; nothing else changes. -/
def Obligations.CrcBitStep : Prop :=
  ∀ (r : Role) (d : Byte) (s : State),
    decode (.cec r ((2 : BitVec 2) ++ d)) = .ok (.crcBit r) ∧
    ∃ t, exec (.crcBit r) s = .next t ∧ t = setAcc r (accOf r t) s ∧
      ((accOf r s).getLsbD 7 = true → accOf r t = (accOf r s <<< 1) ^^^ 0x07) ∧
      ((accOf r s).getLsbD 7 = false → accOf r t = accOf r s <<< 1)

/-- R133: the code, and `CRC.BYTE b` is the exclusive-or followed by eight `CRC.BIT` steps; nothing else changes. -/
def Obligations.CrcByteAbsorbs : Prop :=
  ∀ (r : Role) (b : Byte) (s : State),
    decode (.cec r ((1 : BitVec 2) ++ b)) = .ok (.crcByte r b) ∧
    ∃ t, exec (.crcByte r b) s = .next t ∧ t = setAcc r (accOf r t) s ∧
      accOf r t = Nat.iterate crcBit 8 (accOf r s ^^^ b)

/-- R131 and R115 (decisions D3, D10): `CRC.CLR` completes with `CRC_INIT`; the reserved code is no operation and the
engine ignores it. That the ignored command is a step that changes nothing, where R11 lists it as refused, is the model's
choice (log 2). -/
def Obligations.CrcClearAndReserved : Prop :=
  ∀ (r : Role) (d : Byte) (s : State),
    decode (.cec r ((0 : BitVec 2) ++ d)) = .ok (.crcClr r) ∧
    exec (.crcClr r) s = .next (setAcc r Config.CRC_INIT s) ∧
    accOf r (setAcc r Config.CRC_INIT s) = 0x00 ∧
    decode (.cec r ((3 : BitVec 2) ++ d)) = .error .cecReserved ∧
    makeMove (.bench (.cec r ((3 : BitVec 2) ++ d))) s = .next s

/-- R135 (c), (d), R137: `T` is linear and injective, with the basis values of the table. -/
def Obligations.ShiftTableLinearInjective : Prop :=
  (∀ u v : Byte, crcShift8 (u ^^^ v) = crcShift8 u ^^^ crcShift8 v) ∧
  (∀ u v : Byte, crcShift8 u = crcShift8 v → u = v) ∧
  [0x01, 0x02, 0x04, 0x08, 0x10, 0x20, 0x40, 0x80].map crcShift8 =
    [0x07, 0x0E, 0x1C, 0x38, 0x70, 0xE0, 0xC7, 0x89]

/-- R135 (a), (d), R252: a checksum appended verifies to zero, and only the right one does. -/
def Obligations.ChecksumVerifiesItself : Prop :=
  ∀ (w : List Byte) (c : Byte),
    checksum (w ++ [checksum w]) = 0x00 ∧ (checksum (w ++ [c]) = 0x00 ↔ c = checksum w)

/-- R135 (c): with `CRC_INIT` = 0x00 the checksum is linear over sequences of equal length. -/
def Obligations.ChecksumLinear : Prop :=
  ∀ v w : List Byte, v.length = w.length →
    checksum (List.zipWith (· ^^^ ·) v w) = checksum v ^^^ checksum w

/-- R135 (e), first row of R253: changing exactly one byte of a window that verifies, at any place, to any other value,
makes it fail. -/
def Obligations.OneCorruptedByteIsDetected : Prop :=
  ∀ (pre post : List Byte) (x y : Byte), x ≠ y →
    verdictOf (checksum (pre ++ x :: post)) = .ok → verdictOf (checksum (pre ++ y :: post)) = .corrupt

/-! ## The storage controller -/

/-- R153: `NV.WRITE` is exact on an erased cell, stores `NV_OVERWRITE` on any other, tags it programmed, leaves every
other cell; out of range it is refused (decision D8, log 4). -/
def Obligations.NvWriteProgramsCell : Prop :=
  ∀ (a : Cnt) (b : Byte) (s : State),
    decode (.nvc (word22 1 a b)) = .ok (.nvWrite a b) ∧
    if Config.CAP ≤ a.toNat then
      exec (.nvWrite a b) s = .next { s with dev := { s.dev with nvfault := true }, reply := .refused }
    else ∃ t, exec (.nvWrite a b) s = .next t ∧
      t = { s with dev := { s.dev with nv := t.dev.nv }, reply := .none } ∧
      ∀ x, nvCell t.dev.nv x =
        if x = a.toNat then
          if nvTag s.dev.nv x = .erased then { held := some b, tag := .programmed }
          else { held := some (Config.nvOverwrite (nvVal s.dev.nv x) b), tag := .programmed }
        else nvCell s.dev.nv x

/-- R154 (decision D5): `NV.ERASE` in range leaves the cell erased from any tag and value, and every other cell alone;
a second erase changes no cell. -/
def Obligations.NvEraseResetsCell : Prop :=
  ∀ (a : Cnt) (d : Byte) (s : State), a.toNat < Config.CAP →
    decode (.nvc (word22 2 a d)) = .ok (.nvErase a) ∧
    ∃ t, exec (.nvErase a) s = .next t ∧
      t = { s with dev := { s.dev with nv := t.dev.nv }, reply := .none } ∧
      (∀ x, nvCell t.dev.nv x =
        if x = a.toNat then { held := some Config.ERASED, tag := .erased } else nvCell s.dev.nv x) ∧
      ∃ u, exec (.nvErase a) t = .next u ∧ ∀ x, nvCell u.dev.nv x = nvCell t.dev.nv x

/-- R155: `NV.ERWR` is exact from every tag and value, leaves every other cell, equals an erase and a write, and is
refused out of range (decision D8, log 4). -/
def Obligations.NvEraseWriteProgramsCell : Prop :=
  ∀ (a : Cnt) (b : Byte) (s : State),
    decode (.nvc (word22 3 a b)) = .ok (.nvErwr a b) ∧
    if Config.CAP ≤ a.toNat then
      exec (.nvErwr a b) s = .next { s with dev := { s.dev with nvfault := true }, reply := .refused }
    else ∃ t u v, exec (.nvErwr a b) s = .next t ∧
      t = { s with dev := { s.dev with nv := t.dev.nv }, reply := .none } ∧
      (∀ x, nvCell t.dev.nv x =
        if x = a.toNat then { held := some b, tag := .programmed } else nvCell s.dev.nv x) ∧
      exec (.nvErase a) s = .next u ∧ exec (.nvWrite a b) u = .next v ∧
      ∀ x, nvCell v.dev.nv x = nvCell t.dev.nv x

/-- R152, R156 (decisions D5, D7, D8): `NV.READ` in range answers the byte the cell holds and changes nothing else; any
command at an address at or above `CAP` changes no cell, returns no byte and sets `NVFAULT`. That a refused command
completes with a refusal as its answer is the model's form of it (log 4). -/
def Obligations.NvReadsAndRefusals : Prop :=
  ∀ (a : Cnt) (b : Byte) (s : State),
    decode (.nvc (word22 0 a b)) = .ok (.nvRead a) ∧
    (a.toNat < Config.CAP → exec (.nvRead a) s = .next { s with reply := .byte (nvVal s.dev.nv a.toNat) }) ∧
    (Config.CAP ≤ a.toNat → ∀ i ∈ [Instr.nvRead a, .nvWrite a b, .nvErase a, .nvErwr a b],
      exec i s = .next { s with dev := { s.dev with nvfault := true }, reply := .refused })

/-! ## Codec, injector, verifier -/

/-- R171: `FC.ENCODE` of a payload of at most `MAXPAY` bytes: `FRAME` reads as the payload, the checksum, the
terminator; `FLEN` is the length plus two; the checksum is left in `ACC` (R134). That entries at
and above `FLEN` hold no value is the model's choice (U6, log 7). -/
def Obligations.FcEncodeBuildsFrame : Prop :=
  ∀ (p : List Byte) (s : State), p.length ≤ Config.MAXPAY →
    ∃ t, exec (.fcEncode p) s = .next t ∧ t.host.flen.toNat = p.length + 2 ∧
      (∀ k, tabGet t.host.frame k = (p ++ [checksum p] ++ [0x00])[k]?) ∧
      t = { s with host := { s.host with
              acc := checksum p, frame := t.host.frame, flen := t.host.flen } }

/-- R172 (decision D14): only the value 0x00 is a terminator; the class is the answer (log 3) and nothing else changes. -/
def Obligations.FcClassifySplitsBytes : Prop :=
  ∀ (b : Byte) (s : State),
    exec (.fcClassify b) s = .next { s with reply := .frameClass (if b = 0x00 then .terminator else .data) }

/-- R176, R177 (decision D21): OFF changes nothing; a legal FLIP or REPLACE changes the one byte at its offset. -/
def Obligations.FiApplyChangesOneByte : Prop :=
  ∀ (o : Cnt) (v : Byte) (s : State),
    exec (.fiApply 0 o v) s = .next s ∧
    (∀ old, o.toNat < s.host.flen.toNat → v ≠ 0x00 → tabGet s.host.frame o.toNat = some old →
      ∃ t, exec (.fiApply 1 o v) s = .next t ∧
        t = { s with host := { s.host with frame := t.host.frame } } ∧
        ∀ k, tabGet t.host.frame k = if k = o.toNat then some (old ^^^ v) else tabGet s.host.frame k) ∧
    (o.toNat < s.host.flen.toNat →
      ∃ t, exec (.fiApply 2 o v) s = .next t ∧
        t = { s with host := { s.host with frame := t.host.frame } } ∧
        ∀ k, tabGet t.host.frame k = if k = o.toNat then some v else tabGet s.host.frame k)

/-- R177, R268, R269 (decision D21): the illegal configurations raise FiConfig and change no frame byte (log 14: as a unit
operation too), and `TI` is 0 then. Not on top of a failure, where the first code is kept, and not once a byte of the frame
has been sent: that nothing changes there is the model's choice (log 14). -/
def Obligations.FiApplyIllegalRaisesFiConfig : Prop :=
  ∀ (m : BitVec 2) (o : Cnt) (v : Byte) (s : State),
    (m = 3 ∨ (m = 1 ∧ (s.host.flen.toNat ≤ o.toNat ∨ v = 0x00)) ∨ (m = 2 ∧ s.host.flen.toNat ≤ o.toNat)) →
    (s.host.phase ≠ .hFailed → s.host.ti = 0 →
      exec (.fiApply m o v) s = .next { s with host := { s.host with hfault := 7, phase := .hFailed } }) ∧
    (s.host.phase = .hFailed ∨ s.host.ti ≠ 0 → exec (.fiApply m o v) s = .next s)

/-- R250: the verdict is OK exactly where the checksum of the whole window is zero; `ACC` holds that checksum. -/
def Obligations.IvVerifyReportsChecksum : Prop :=
  ∀ (w : List Byte) (s : State),
    exec (.ivVerify w) s = .next { s with
      dev := { s.dev with acc := checksum w }
      reply := .verdict (if checksum w = 0x00 then .ok else .corrupt) }

/-! ## The handshake -/

/-- R192: the device arms exactly at the end of an erase pass, with every cell erased in a good state: `DPHASE` and `DHS`
change, no byte is consumed. -/
def Obligations.DeviceArms : Prop :=
  ∀ s : State,
    (decode (.dev (devWord s)) = .ok .hsDArm ↔ s.dev.phase = .dErase ∧ s.dev.ea.toNat = Config.CAP) ∧
    (s.dev.phase = .dErase → s.dev.ea.toNat = Config.CAP →
      exec .hsDArm s = .next { s with dev := { s.dev with phase := .dAwait, hs := .awaitPeer } } ∧
      (DeviceGood s.dev → ∀ a, a < Config.CAP → nvTag s.dev.nv a = .erased))

/-- R193: in `D_AWAIT` exactly a byte other than the token is skipped: it is consumed and nothing else changes. -/
def Obligations.DeviceSkipsOtherBytes : Prop :=
  ∀ (b : Byte) (s : State),
    (decode (.dev (devWord s)) = .ok (.hsDSkip b) ↔ s.dev.phase = .dAwait ∧ s.h2d.head? = some b ∧ b ≠ 0x4F) ∧
    ∀ rest, s.dev.phase = .dAwait → s.h2d = b :: rest → b ≠ 0x4F →
      exec (.hsDSkip b) s = .next { s with h2d := rest }

/-- R194: in `D_AWAIT` exactly the token is taken as a request: it is consumed and the device goes to `D_REPLY`; `DHS`
stays. -/
def Obligations.DeviceTakesRequest : Prop :=
  ∀ s : State,
    (decode (.dev (devWord s)) = .ok .hsDReq ↔ s.dev.phase = .dAwait ∧ s.h2d.head? = some 0x4F) ∧
    ∀ rest, s.dev.phase = .dAwait → s.h2d = 0x4F :: rest →
      exec .hsDReq s = .next { s with h2d := rest, dev := { s.dev with phase := .dReply } }

/-- R195 (decision D24): the reply token is sent, the device is synced and receiving, the last session's `N`, `SIZE`,
`VDONE`, `VOK` are dropped and `CSUM` is kept. -/
def Obligations.DeviceAcknowledges : Prop :=
  ∀ s : State, s.dev.phase = .dReply →
    decode (.dev (devWord s)) = .ok .hsDAck ∧
    exec .hsDAck s = .next { s with
      d2h := s.d2h ++ [0x54]
      dev := { s.dev with phase := .dRecv, hs := .synced, n := 0, size := 0, vdone := false, vok := false } }

/-- R196 (decision D38): one request token is sent and the host waits. -/
def Obligations.HostRequests : Prop :=
  ∀ s : State, s.host.phase = .hReq →
    decode (.host (hostWord none s)) = .ok .hsHReq ∧
    exec .hsHReq s = .next { s with
      h2d := s.h2d ++ [0x4F], host := { s.host with phase := .hAwait, hs := .awaitPeer } }

/-- R197: the reply token is consumed and the host starts sending from the first frame byte. -/
def Obligations.HostTakesReply : Prop :=
  ∀ (rest : List Byte) (s : State), s.host.phase = .hAwait → s.d2h = 0x54 :: rest →
    decode (.host (hostWord none s)) = .ok .hsHAck ∧
    exec .hsHAck s = .next { s with
      d2h := rest, host := { s.host with phase := .hSend, hs := .synced, ti := 0 } }

/-- R198, R199, R267 (decisions D13, D18, D19): a wrong reply byte is consumed and raises HandshakeMismatch; a time-out
on an empty channel raises HandshakeTimeout; either way the handshake state fails. -/
def Obligations.HandshakeFailures : Prop :=
  (∀ (b : Byte) (rest : List Byte) (s : State), s.host.phase = .hAwait → s.d2h = b :: rest → b ≠ 0x54 →
    decode (.host (hostWord none s)) = .ok (.hsHNak b) ∧
    exec (.hsHNak b) s = .next { s with
      d2h := rest, host := { s.host with phase := .hFailed, hs := .failed, hfault := 4 } }) ∧
  (∀ s : State, s.host.phase = .hAwait → s.d2h = [] →
    decode (.host (hostWord (some .timeout) s)) = .ok .hsHTimeout ∧
    exec .hsHTimeout s = .next { s with host := { s.host with phase := .hFailed, hs := .failed, hfault := 3 } })

/-! ## The device sequencer -/

/-- R211 (decision D23): the cell at `EA` is erased, every other cell is as before, and `EA` moves on. -/
def Obligations.DeviceErasesNextCell : Prop :=
  ∀ s : State, s.dev.phase = .dErase → s.dev.ea.toNat < Config.CAP →
    decode (.dev (devWord s)) = .ok .dsErase ∧
    ∃ t, exec .dsErase s = .next t ∧
      t = { s with dev := { s.dev with nv := t.dev.nv, ea := s.dev.ea + 1 } } ∧
      ∀ x, nvCell t.dev.nv x =
        if x = s.dev.ea.toNat then { held := some Config.ERASED, tag := .erased } else nvCell s.dev.nv x

/-- R212: exactly a byte other than the terminator, with room left, goes to `NV[N]` by a plain write and to `BUF[N]`, and
`N` moves on; in a good state the cell was erased and holds exactly the byte. -/
def Obligations.DeviceStoresByte : Prop :=
  ∀ (b : Byte) (s : State),
    (decode (.dev (devWord s)) = .ok (.dsRxData b) ↔
      s.dev.phase = .dRecv ∧ s.h2d.head? = some b ∧ b ≠ 0x00 ∧ s.dev.n.toNat < Config.CAP) ∧
    ∀ rest, s.dev.phase = .dRecv → s.h2d = b :: rest → b ≠ 0x00 → s.dev.n.toNat < Config.CAP →
    ∃ t, exec (.dsRxData b) s = .next t ∧
      t = { s with h2d := rest, dev := { s.dev with nv := t.dev.nv, buf := t.dev.buf, n := s.dev.n + 1 } } ∧
      (∀ k, tabGet t.dev.buf k = if k = s.dev.n.toNat then some b else tabGet s.dev.buf k) ∧
      (∀ x, nvCell t.dev.nv x =
        if x = s.dev.n.toNat then
          if nvTag s.dev.nv x = .erased then { held := some b, tag := .programmed }
          else { held := some (Config.nvOverwrite (nvVal s.dev.nv x) b), tag := .programmed }
        else nvCell s.dev.nv x) ∧
      (s.dev.n + 1).toNat = s.dev.n.toNat + 1 ∧
      (DeviceGood s.dev → nvTag s.dev.nv s.dev.n.toNat = .erased ∧
        nvCell t.dev.nv s.dev.n.toNat = { held := some b, tag := .programmed })

/-- R213 (decisions D14, D26): the terminator after at least one byte closes the window, at every `N` from 1 to `CAP`;
it is stored nowhere. -/
def Obligations.DeviceClosesWindow : Prop :=
  ∀ (rest : List Byte) (s : State),
    s.dev.phase = .dRecv → s.h2d = 0x00 :: rest → 1 ≤ s.dev.n.toNat → s.dev.n.toNat ≤ Config.CAP →
    decode (.dev (devWord s)) = .ok .dsRxTerm ∧
    exec .dsRxTerm s = .next { s with h2d := rest, dev := { s.dev with size := s.dev.n - 1, phase := .dVerify } } ∧
    (s.dev.n - 1).toNat = s.dev.n.toNat - 1

/-- R214, R215, R266 (decisions D15, D17, D18): a byte beyond capacity raises PayloadTooLarge and a terminator with
nothing before it EmptyFrame; the byte is consumed and nothing is stored. -/
def Obligations.DeviceFaultEntry : Prop :=
  (∀ (b : Byte) (rest : List Byte) (s : State),
    s.dev.phase = .dRecv → s.h2d = b :: rest → b ≠ 0x00 → s.dev.n.toNat = Config.CAP →
    decode (.dev (devWord s)) = .ok (.dsRxOver b) ∧
    exec (.dsRxOver b) s = .next { s with h2d := rest, dev := { s.dev with dfault := 1, phase := .dFault } }) ∧
  (∀ (rest : List Byte) (s : State), s.dev.phase = .dRecv → s.h2d = 0x00 :: rest → s.dev.n.toNat = 0 →
    decode (.dev (devWord s)) = .ok .dsRxEmpty ∧
    exec .dsRxEmpty s = .next { s with h2d := rest, dev := { s.dev with dfault := 2, phase := .dFault } })

/-- R216, R251, R265: the verdict on the window goes to `VOK`, `VDONE` and `DIAG`, and whatever it is the device goes on
to commit. -/
def Obligations.DeviceVerifies : Prop :=
  ∀ (w : List Byte) (s : State), s.dev.phase = .dVerify → bufTake s.dev.buf s.dev.n.toNat = some w →
    decode (.dev (devWord s)) = .ok .dsVerify ∧
    exec .dsVerify s = .next { s with
      dev := { s.dev with
        acc := checksum w, vok := decide (checksum w = 0x00), vdone := true, phase := .dCommit }
      diag := if checksum w = 0x00 then [.vstart, .vpass] else [.vstart, .vfail] }

/-- R217: the payload's checksum goes to `CSUM` and by erase-write to the cell at `SIZE`; every other cell, and `BUF`,
stay. -/
def Obligations.DeviceCommits : Prop :=
  ∀ (q : List Byte) (s : State),
    s.dev.phase = .dCommit → bufTake s.dev.buf s.dev.size.toNat = some q → s.dev.size.toNat < Config.CAP →
    decode (.dev (devWord s)) = .ok .dsCommit ∧
    ∃ t, exec .dsCommit s = .next t ∧
      t = { s with dev := { s.dev with
              nv := t.dev.nv, acc := checksum q, csum := checksum q, ri := 0, phase := .dReadback } } ∧
      ∀ x, nvCell t.dev.nv x =
        if x = s.dev.size.toNat then { held := some (checksum q), tag := .programmed } else nvCell s.dev.nv x

/-- R218: the byte at `RI` of the mirror is sent and `RI` moves on. -/
def Obligations.DeviceReadsBack : Prop :=
  ∀ s : State, s.dev.phase = .dReadback → s.dev.ri.toNat ≤ s.dev.size.toNat → s.dev.ri.toNat < Config.CAP →
    decode (.dev (devWord s)) = .ok .dsRbByte ∧
    exec .dsRbByte s = .next { s with
      d2h := s.d2h ++ [nvVal s.dev.nv s.dev.ri.toNat], dev := { s.dev with ri := s.dev.ri + 1 } }

/-- R219: exactly behind the last readback byte the terminator is sent and the device starts erasing again; this step leaves
`N`, `SIZE`, `CSUM`, `VDONE`, `VOK` alone. -/
def Obligations.DeviceRearms : Prop :=
  ∀ s : State,
    (decode (.dev (devWord s)) = .ok .dsRbTerm ↔ s.dev.phase = .dReadback ∧ s.dev.ri.toNat = s.dev.size.toNat + 1) ∧
    (s.dev.phase = .dReadback → s.dev.ri.toNat = s.dev.size.toNat + 1 →
    exec .dsRbTerm s = .next { s with
      d2h := s.d2h ++ [0x00], dev := { s.dev with phase := .dErase, ea := 0, hs := .idle } })

/-! ## The host sequencer -/

/-- R222 (decisions D28, D38): a start is accepted in `H_IDLE`, `H_DONE` and `H_FAILED` and begins a fresh attempt; in
any other phase the event is ignored, which the model makes a step that changes nothing (log 2; U14 says that the event is
refused and lost). The channels are not emptied. -/
def Obligations.HostStartsAttempt : Prop :=
  ∀ (p : List Byte) (m : BitVec 2) (o : Cnt) (v : Byte) (s : State),
    ((s.host.phase = .hIdle ∨ s.host.phase = .hDone ∨ s.host.phase = .hFailed) →
      decode (.host (hostWord (some (.start p (word22 m o v))) s)) = .ok (.lsStart p m o v) ∧
      exec (.lsStart p m o v) s = .next { s with host := { s.host with
        payload := p, fiMode := m, fiOffset := o, fiValue := v, hfault := 0, hs := .idle, ti := 0, rn := 0, flen := 0,
        phase := .hEncode } }) ∧
    (s.host.phase ≠ .hIdle → s.host.phase ≠ .hDone → s.host.phase ≠ .hFailed →
      makeMove (.event (.host (.start p (word22 m o v)))) s = .next s)

/-- R223 (decisions D16, D21), success: with room for the payload and a legal injector configuration the frame is built,
one byte of it changed where the injector is on, and the host goes on to request. That entries of `FRAME` at and above
`FLEN` hold no value is the model's choice (U6, log 7). -/
def Obligations.HostEncodes : Prop :=
  ∀ s : State, s.host.phase = .hEncode → s.host.payload.length < Config.CAP →
    (s.host.fiMode = 0 ∨
      (s.host.fiMode = 1 ∧ s.host.fiOffset.toNat < s.host.payload.length + 2 ∧ s.host.fiValue ≠ 0x00) ∨
      (s.host.fiMode = 2 ∧ s.host.fiOffset.toNat < s.host.payload.length + 2)) →
    decode (.host (hostWord none s)) = .ok .lsEncode ∧
    ∃ t, exec .lsEncode s = .next t ∧ t.host.flen.toNat = s.host.payload.length + 2 ∧
      t = { s with host := { s.host with
              acc := checksum s.host.payload, frame := t.host.frame, flen := t.host.flen, phase := .hReq } } ∧
      ∀ k, tabGet t.host.frame k =
        if s.host.fiMode = 1 ∧ k = s.host.fiOffset.toNat then
          ((s.host.payload ++ [checksum s.host.payload] ++ [0x00])[k]?).map (· ^^^ s.host.fiValue)
        else if s.host.fiMode = 2 ∧ k = s.host.fiOffset.toNat then some s.host.fiValue
        else (s.host.payload ++ [checksum s.host.payload] ++ [0x00])[k]?

/-- R223, R264 (3) (decisions D16, D21, D26), failure: a payload of `CAP` bytes or more raises PayloadTooLarge whatever
the injector says and builds no frame; otherwise an illegal configuration raises FiConfig after the clean frame is
built. Nothing is transmitted. That entries of `FRAME` at and above `FLEN` hold no value is the model's choice (U6, log
7). -/
def Obligations.HostEncodeFailures : Prop :=
  ∀ s : State, s.host.phase = .hEncode →
    (Config.CAP ≤ s.host.payload.length →
      exec .lsEncode s = .next { s with host := { s.host with hfault := 1, phase := .hFailed } }) ∧
    (s.host.payload.length < Config.CAP →
      (s.host.fiMode = 3 ∨
        (s.host.fiMode = 1 ∧ (s.host.payload.length + 2 ≤ s.host.fiOffset.toNat ∨ s.host.fiValue = 0x00)) ∨
        (s.host.fiMode = 2 ∧ s.host.payload.length + 2 ≤ s.host.fiOffset.toNat)) →
      ∃ t, exec .lsEncode s = .next t ∧ t.host.flen.toNat = s.host.payload.length + 2 ∧
        t = { s with host := { s.host with
                acc := checksum s.host.payload, frame := t.host.frame, flen := t.host.flen, hfault := 7,
                phase := .hFailed } } ∧
        ∀ k, tabGet t.host.frame k = (s.host.payload ++ [checksum s.host.payload] ++ [0x00])[k]?)

/-- R224: the byte at `TI` is sent; after the last one, by the incremented `TI`, the host goes on to the readback. -/
def Obligations.HostTransmitsByte : Prop :=
  ∀ (b : Byte) (s : State), s.host.phase = .hSend → tabGet s.host.frame s.host.ti.toNat = some b →
    decode (.host (hostWord none s)) = .ok .lsTx ∧
    exec .lsTx s = .next { s with
      h2d := s.h2d ++ [b]
      host := { s.host with
        ti := s.host.ti + 1, phase := if s.host.ti + 1 = s.host.flen then .hReadback else .hSend } }

/-- R225, R226 (decision D20): a readback byte is consumed and stored at `RN`; the terminator is consumed, stored
nowhere, and ends the session, at every `RN`. -/
def Obligations.HostCollectsReadback : Prop :=
  (∀ (b : Byte) (rest : List Byte) (s : State),
    s.host.phase = .hReadback → s.d2h = b :: rest → b ≠ 0x00 → s.host.rn.toNat < Config.CAP →
    decode (.host (hostWord none s)) = .ok (.lsRbData b) ∧
    ∃ t, exec (.lsRbData b) s = .next t ∧
      t = { s with d2h := rest, host := { s.host with rb := t.host.rb, rn := s.host.rn + 1 } } ∧
      ∀ k, tabGet t.host.rb k = if k = s.host.rn.toNat then some b else tabGet s.host.rb k) ∧
  (∀ (rest : List Byte) (s : State), s.host.phase = .hReadback → s.d2h = 0x00 :: rest →
    decode (.host (hostWord none s)) = .ok .lsRbTerm ∧
    exec .lsRbTerm s = .next { s with d2h := rest, host := { s.host with phase := .hDone } })

/-- R227, R228, R229, R267 (decisions D13, D18, D20): the failures after the handshake: an overrun consumes its byte, a
time-out and a link failure consume nothing; the handshake state stays. -/
def Obligations.LinkFailures : Prop :=
  (∀ (b : Byte) (rest : List Byte) (s : State),
    s.host.phase = .hReadback → s.d2h = b :: rest → b ≠ 0x00 → s.host.rn.toNat = Config.CAP →
    decode (.host (hostWord none s)) = .ok (.lsRbOver b) ∧
    exec (.lsRbOver b) s = .next { s with d2h := rest, host := { s.host with hfault := 6, phase := .hFailed } }) ∧
  (∀ s : State, s.host.phase = .hReadback → s.d2h = [] →
    decode (.host (hostWord (some .timeout) s)) = .ok .lsRbTimeout ∧
    exec .lsRbTimeout s = .next { s with host := { s.host with hfault := 5, phase := .hFailed } }) ∧
  (∀ s : State,
    s.host.phase = .hReq ∨ s.host.phase = .hAwait ∨ s.host.phase = .hSend ∨ s.host.phase = .hReadback →
    decode (.host (hostWord (some .linkfail) s)) = .ok .lsLinkfail ∧
    exec .lsLinkfail s = .next { s with host := { s.host with hfault := 5, phase := .hFailed } })

/-! ## Reset, power, the wire values -/

/-- R300 (decisions D7, D25, D27): RESET of the device keeps every NV value and forgets every tag; the registers take
their reset values, `BUF` holds no value (log 7), the host and the channels stay. RESET of the host likewise. R64, R275: over a
power cycle, a move of the model's (log 20), the NV values persist likewise and the rest is as after power-on. -/
def Obligations.ResetKeepsNvValues : Prop :=
  ∀ s : State,
    (NvMem.wf s.dev.nv → ∃ t, exec (.reset .device) s = .next t ∧
      t = { s with dev :=
            { acc := 0x00, nv := t.dev.nv, buf := [], phase := .dErase, hs := .idle, ea := 0, n := 0, size := 0, ri := 0,
              csum := 0x00, vdone := false, vok := false, dfault := 0, nvfault := false } } ∧
      (∀ x, nvVal t.dev.nv x = nvVal s.dev.nv x) ∧ ∀ x, nvTag t.dev.nv x = .unknown) ∧
    exec (.reset .host) s = .next { s with host :=
      { acc := 0x00, phase := .hIdle, hs := .idle, payload := [], frame := [], flen := 0, ti := 0, rb := [], rn := 0,
        hfault := 0, fiMode := 0, fiOffset := 0, fiValue := 0x00 } } ∧
    (NvMem.wf s.dev.nv → ∃ t, makeMove .powerCycle s = .next t ∧
      t.h2d = [] ∧ t.d2h = [] ∧ t.host = HostInst.reset ∧ t.dev = { DeviceInst.reset with nv := t.dev.nv } ∧
      (∀ x, nvVal t.dev.nv x = nvVal s.dev.nv x) ∧ ∀ x, nvTag t.dev.nv x = .unknown)

/-- R49, R301 (decisions D7, D12, D27): right after power-on both instances hold their reset values, both channels are
empty, every cell holds `NV0` with tag `UNKNOWN`, and both status views read zero (R34, R45). -/
def Obligations.PowerOnState : Prop :=
  State.reset.h2d = [] ∧ State.reset.d2h = [] ∧ dstatus State.reset = 0x00 ∧ hstatus State.reset = 0x00 ∧
  (∀ a, nvVal State.reset.dev.nv a = Config.nv0 a ∧ nvTag State.reset.dev.nv a = .unknown) ∧
  (∀ k, 1 ≤ k → k ≤ 17 → readRegister k State.reset = some 0)

/-- R101, R102 (log 13: a wire value runs the operation its receiver's phase decodes it to): the three values in the
phases that distinguish them, with what they do there; in every phase that takes the byte what the role's turn does; before
a role whose phase takes no byte they change nothing. The same of every byte, data too, that the bench shows a role (log
12): the role's turn where the role takes that byte, and nothing where it does not. -/
def Obligations.WireValuesDecodedByPhase : Prop :=
  (∀ (rest : List Byte) (s : State), s.dev.phase = .dAwait → s.h2d = 0x4F :: rest →
    exec (.tokReq .device) s = .next { s with h2d := rest, dev := { s.dev with phase := .dReply } }) ∧
  (∀ (rest : List Byte) (s : State), s.host.phase = .hAwait → s.d2h = 0x54 :: rest →
    exec (.tokAck .host) s = .next { s with
      d2h := rest, host := { s.host with phase := .hSend, hs := .synced, ti := 0 } }) ∧
  (∀ (rest : List Byte) (s : State), s.dev.phase = .dRecv → s.h2d = 0x00 :: rest → 1 ≤ s.dev.n.toNat →
    exec (.term .device) s = .next { s with
      h2d := rest, dev := { s.dev with size := s.dev.n - 1, phase := .dVerify } }) ∧
  (∀ (rest : List Byte) (s : State), s.host.phase = .hReadback → s.d2h = 0x00 :: rest →
    exec (.term .host) s = .next { s with d2h := rest, host := { s.host with phase := .hDone } }) ∧
  (∀ (r : Role) (b : Byte) (i j : Instr) (e : Encoding) (s : State), decode (.w8 r b) = .ok i → takes r b s = true →
    fetched (.turn r) s = some e → decode e = .ok j → exec i s = exec j s) ∧
  (∀ s : State, s.dev.phase ≠ .dAwait → s.dev.phase ≠ .dRecv →
    ∀ i ∈ [Instr.tokReq .device, .tokAck .device, .term .device], exec i s = .next s) ∧
  (∀ s : State, s.host.phase ≠ .hAwait → s.host.phase ≠ .hReadback →
    ∀ i ∈ [Instr.tokReq .host, .tokAck .host, .term .host], exec i s = .next s) ∧
  (∀ (r : Role) (b : Byte) (s : State),
    (takes r b s = true → makeMove (.bench (.w8 r b)) s = makeMove (.turn r) s) ∧
    (takes r b s = false → makeMove (.bench (.w8 r b)) s = .next s))

/-! ## Encodings -/

/-- Every well-formed operation is read back from its encoding, with every operand at every value its encoding admits
(30_encoding.md, sections 1 and 2); and whatever the decoder reads is well formed. -/
def Obligations.DecodeEncodeAgree : Prop :=
  (∀ i : Instr, i.wf = true → decode (encode i) = .ok i) ∧
  (∀ (e : Encoding) (i : Instr), decode e = .ok i → i.wf = true)

/-- Words written out from the spec's encodings (R101, R106, R107, R108; the words of 95_test_vectors.md V17, V19, V22,
V25, V26, V33) are read as the operations they stand for. -/
def Obligations.WordsOfTheSpec : Prop :=
  decode (.nvc 0x200700) = .ok (.nvErase 7) ∧ decode (.nvc 0x100742) = .ok (.nvWrite 7 0x42) ∧
  decode (.nvc 0x300287) = .ok (.nvErwr 2 0x87) ∧ decode (.nvc 0x080000) = .ok (.nvRead 2048) ∧
  decode (.nvc 0x1FFF11) = .ok (.nvWrite 4095 0x11) ∧ decode (.fic 0x100201) = .ok (.fiApply 1 2 0x01) ∧
  decode (.cec .host 0b0101000001) = .ok (.crcByte .host 0x41) ∧
  decodeTableWord 8 0x4F = some (.tokReq .device) ∧ decodeTableWord 8 0x54 = some (.tokAck .host) ∧
  decodeTableWord 8 0x00 = some (.term .device)

/-- R109, R220: the device's `SEQ` word is read as an operation exactly where that is a device transition and it is
enabled; so in every device phase at most one operation is enabled. -/
def Obligations.DeviceTurnIsTheEnabledOperation : Prop :=
  ∀ (s : State) (i : Instr), decode (.dev (devWord s)) = .ok i ↔ (isDeviceOp i = true ∧ enabled i s = true)

/-- R110, R230: the same of the host's own steps; and an event is read as an operation exactly where that is a
reaction to it and is enabled. -/
def Obligations.HostTurnIsTheEnabledOperation : Prop :=
  (∀ (s : State) (i : Instr), decode (.host (hostWord none s)) = .ok i ↔ (isHostOp i = true ∧ enabled i s = true)) ∧
  (∀ (s : State) (e : HostEvent) (i : Instr),
    decode (.host (hostWord (some e) s)) = .ok i ↔ (reactsTo e i ∧ enabled i s = true))

/-! ## Steps -/

/-- A step makes the next move in the state without that move and with the outputs cleared (log 3). The next move is the
head of the agenda, or a free choice where the agenda is empty (log 1). Where it fetches the encoding of an operation that
the port does not bar (log 10), the step is exec of that operation; where the port bars it, the step is refused. A table
word placed where step fetches (log 19) is run by the very next step. -/
def Obligations.StepRunsDecodedOperation : Prop :=
  (∀ s : State, step s = makeMove (nextMove s) (beginMove s)) ∧
  (∀ (s : State) (m : Move) (rest : List Move), s.agenda = m :: rest →
    nextMove s = m ∧ beginMove s = { s with agenda := rest, diag := [], reply := .none }) ∧
  (∀ s : State, s.agenda = [] →
    nextMove s = Config.schedule s.tick ∧ beginMove s = { s with tick := s.tick + 1, diag := [], reply := .none }) ∧
  (∀ (s : State) (e : Encoding) (i : Instr), fetched (nextMove s) (beginMove s) = some e → decode e = .ok i →
    (barred (nextMove s) i (beginMove s) = false → step s = exec i (beginMove s)) ∧
    (barred (nextMove s) i (beginMove s) = true → step s = .refused .portInUse)) ∧
  (∀ (s : State) (nbits w : Nat) (j : Instr), decodeTableWord nbits w = some j → portBars j s = false →
    step (s.withFetchWord nbits w) = exec j { s with diag := [], reply := .none })

/-- R11 blocked, R262 (log 2: a blocked operation or a lost event is a step that changes nothing): an operation whose
enabling condition does not hold leaves the state as it is, and so does a turn or an event with nothing enabled. -/
def Obligations.NotEnabledChangesNothing : Prop :=
  (∀ (i : Instr) (s : State), enabled i s = false → exec i s = .next s) ∧
  (∀ (m : Move) (e : Encoding) (s : State), fetched m s = some e → decode e = .error .noneEnabled →
    makeMove m s = .next s)

/-- R319, U12 (log 10: when the sequencers count as running, and that U12 covers the frame commands, is the model's
reading): while the device sequencer runs the port's storage commands are refused, and while a host attempt runs its frame
commands, `FI.APPLY` and `FC.ENCODE`, are; none of them changes anything. The model's choices: `FC.ENCODE` of a payload
longer than `MAXPAY`, outside R171's operand range, is refused (log 15), and a bare word with bits above its format's width
is no command and changes nothing (log 12). A byte of data is neither: `WireValuesDecodedByPhase` says what it does. -/
def Obligations.RefusedAtThePort : Prop :=
  (∀ (w : BitVec 22) (s : State), s.dev.phase ≠ .dFault → (s.dev.phase = .dErase → s.dev.ea ≠ 0) →
    makeMove (.bench (.nvc w)) s = .refused .portInUse) ∧
  (∀ s : State, s.host.phase ≠ .hIdle → s.host.phase ≠ .hDone → s.host.phase ≠ .hFailed →
    (∀ w : BitVec 22, makeMove (.bench (.fic w)) s = .refused .portInUse) ∧
    (∀ p : List Byte, p.length ≤ Config.MAXPAY → makeMove (.bench (.payload p)) s = .refused .portInUse)) ∧
  (∀ (p : List Byte) (s : State), Config.MAXPAY < p.length →
    exec (.fcEncode p) s = .refused .payloadTooLong ∧
      makeMove (.bench (.payload p)) s = .refused .payloadTooLong) ∧
  (∀ (nbits w : Nat) (s : State),
    (if nbits ≤ 8 then 2 ^ 8 ≤ w else if nbits ≤ 16 then 2 ^ 10 ≤ w else 2 ^ 22 ≤ w) →
    makeMove (.bench (.raw nbits w)) s = .next s)

/-- R34, R45 (decision D35): the bits of the two status views. -/
def Obligations.StatusViewBits : Prop :=
  ∀ s : State,
    (dstatus s).extractLsb' 0 3 = s.dev.phase.code ∧ (dstatus s).extractLsb' 3 2 = s.dev.hs.code ∧
    (dstatus s).getLsbD 5 = s.dev.vdone ∧ (dstatus s).getLsbD 6 = s.dev.vok ∧
    ((dstatus s).getLsbD 7 = true ↔ s.dev.dfault ≠ 0 ∨ s.dev.nvfault = true) ∧
    (hstatus s).extractLsb' 0 3 = s.host.phase.code ∧ (hstatus s).extractLsb' 3 2 = s.host.hs.code ∧
    (hstatus s).extractLsb' 5 2 = 0 ∧ ((hstatus s).getLsbD 7 = true ↔ s.host.hfault ≠ 0)

/-! ## Invariants and whole-machine rules -/

/-- The power-on state is good. -/
def Obligations.PowerOnIsGood : Prop := Good State.reset

/-- R25, R32, R43, R65, R80, R81, R191, R269: every step, by whatever agent, from a good state that answers a next state
answers a good one. -/
def Obligations.StepKeepsGood : Prop :=
  ∀ s t : State, Good s → step s = .next t → Good t

/-- From a good state every turn and every event answers a next state: no run of the sequencers reaches a model fault
(R66, R80). That a blocked turn and a lost event answer one too is the model's choice (log 2: a step that changes nothing;
R11 gives a blocked agent no step, and U14 has the lost event refused and ignored). -/
def Obligations.OrdinaryMovesNeverStop : Prop :=
  ∀ (m : Move) (s : State), Good s → isOrdinary m = true → ∃ t, makeMove m s = .next t

/-- R80: in a good state the cell that `DS.RX.DATA` writes is erased and inside the array, and no turn changes
`NVFAULT`. -/
def Obligations.EraseBeforeWrite : Prop :=
  ∀ s : State, Good s →
    (∀ b, enabled (.dsRxData b) s = true →
      nvTag s.dev.nv s.dev.n.toNat = .erased ∧ s.dev.n.toNat < Config.CAP) ∧
    ∀ (r : Role) (t : State), makeMove (.turn r) s = .next t → t.dev.nvfault = s.dev.nvfault

/-- R32, R266, R268: a faulted device stays in `D_FAULT` with its code and all its registers and takes nothing from the
channel through every turn and every event but its own RESET; a failed host stays failed with its code and all its
registers but for a start and its own RESET. Failures do not nest: whatever operation is run, the bench's too, the first
code stays until RESET, or for the host a start, clears it. -/
def Obligations.FaultsAreLeftOnlyAsSaid : Prop :=
  (∀ (m : Move) (s t : State), isOrdinary m = true → makeMove m s = .next t →
    (s.dev.phase = .dFault → m ≠ .event (.reset .device) → t.dev = s.dev ∧ ∃ w, t.h2d = s.h2d ++ w) ∧
    (s.host.phase = .hFailed → m ≠ .event (.reset .host) → (∀ p f, m ≠ .event (.host (.start p f))) →
      t.host = s.host)) ∧
  (∀ (i : Instr) (s t : State), exec i s = .next t →
    (s.dev.phase = .dFault → i ≠ .reset .device → t.dev.phase = .dFault ∧ t.dev.dfault = s.dev.dfault) ∧
    (s.host.phase = .hFailed → i ≠ .reset .host → (∀ p m o v, i ≠ .lsStart p m o v) →
      t.host.phase = .hFailed ∧ t.host.hfault = s.host.hfault))

/-- R60, R69, R75: the two sequencers share only the channels: a device transition leaves the host instance alone,
takes at most one byte from `H2D` and adds at most one to `D2H`, never both; a host transition likewise the other way.
Neither touches the agenda. -/
def Obligations.RolesShareOnlyTheChannels : Prop :=
  ∀ (i : Instr) (s t : State), exec i s = .next t →
    (isDeviceOp i = true → t.host = s.host ∧ t.agenda = s.agenda ∧ t.tick = s.tick ∧
      ((t.h2d = s.h2d ∧ t.d2h = s.d2h) ∨ (t.h2d = s.h2d.tail ∧ t.d2h = s.d2h) ∨
        (t.h2d = s.h2d ∧ ∃ b, t.d2h = s.d2h ++ [b]))) ∧
    (isHostOp i = true ∨ isHostReaction i = true → t.dev = s.dev ∧ t.agenda = s.agenda ∧ t.tick = s.tick ∧
      ((t.h2d = s.h2d ∧ t.d2h = s.d2h) ∨ (t.d2h = s.d2h.tail ∧ t.h2d = s.h2d) ∨
        (t.d2h = s.d2h ∧ ∃ b, t.h2d = s.h2d ++ [b])))

/-- R75: half duplex: a host turn takes nothing from `D2H` in `H_REQ` and `H_SEND` and sends nothing in `H_AWAIT` and
`H_READBACK`; a device turn sends nothing in `D_AWAIT` and `D_RECV` and takes nothing in its other phases. -/
def Obligations.HalfDuplexTurns : Prop :=
  ∀ s t : State,
    (makeMove (.turn .host) s = .next t →
      (s.host.phase = .hReq ∨ s.host.phase = .hSend → t.d2h = s.d2h) ∧
      (s.host.phase = .hAwait ∨ s.host.phase = .hReadback → t.h2d = s.h2d)) ∧
    (makeMove (.turn .device) s = .next t →
      (s.dev.phase = .dAwait ∨ s.dev.phase = .dRecv → t.d2h = s.d2h) ∧
      (s.dev.phase ≠ .dAwait → s.dev.phase ≠ .dRecv → t.h2d = s.h2d))

/-- R231: an enabled device transition and an enabled host transition commute: neither disables the other, and in either
order they lead to the same state. -/
def Obligations.RolesCommute : Prop :=
  ∀ (i j : Instr) (s u v : State), isDeviceOp i = true → isHostOp j = true → enabled i s = true →
    enabled j s = true → exec i s = .next u → exec j s = .next v →
    enabled j u = true ∧ enabled i v = true ∧ ∃ t, exec j u = .next t ∧ exec i v = .next t

/-- R157, R211 (decision D23): from the start of an erase pass, `CAP` device turns leave every cell erased and the
device ready to arm; nothing else changes. -/
def Obligations.ErasePassClearsEveryCell : Prop :=
  ∀ s : State, s.dev.phase = .dErase → s.dev.ea = 0 →
    ∃ t, runMoves (turns .device Config.CAP) s = .next t ∧ t.dev.ea.toNat = Config.CAP ∧
      (∀ a, a < Config.CAP → nvCell t.dev.nv a = { held := some Config.ERASED, tag := .erased }) ∧
      t = { s with dev := { s.dev with nv := t.dev.nv, ea := t.dev.ea } }

/-- R103, R224: a host that begins to send puts the whole frame on `H2D`, in order, in as many turns as it has bytes, and
then awaits the readback. -/
def Obligations.HostSendsTheFrame : Prop :=
  ∀ (w : List Byte) (s : State), s.host.phase = .hSend → s.host.ti = 0 → 0 < s.host.flen.toNat →
    bufTake s.host.frame s.host.flen.toNat = some w →
    runMoves (turns .host s.host.flen.toNat) s = .next { s with
      h2d := s.h2d ++ w, host := { s.host with ti := s.host.flen, phase := .hReadback } }

/-- R63, R81, R175, R210, R216, R217, R218: a good device that begins to receive, with a window `w` (not empty, no
terminator in it, at most `CAP` bytes) and a terminator before it, takes exactly these bytes, reports whether the checksum
of `w` is zero, sends back the payload as received with the checksum it recomputed itself and a terminator, and starts
erasing again. -/
def Obligations.DeviceServesOneSession : Prop :=
  ∀ (w rest : List Byte) (s : State), DeviceGood s.dev → s.dev.phase = .dRecv → s.dev.n = 0 →
    w ≠ [] → (0x00 : Byte) ∉ w → w.length ≤ Config.CAP → s.h2d = w ++ [0x00] ++ rest →
    ∃ t, runMoves (turns .device (2 * w.length + 4)) s = .next t ∧
      t.h2d = rest ∧ t.d2h = s.d2h ++ w.dropLast ++ [checksum w.dropLast] ++ [0x00] ∧ t.host = s.host ∧
      t.dev.phase = .dErase ∧ t.dev.ea = 0 ∧ t.dev.hs = .idle ∧ t.dev.n.toNat = w.length ∧
      t.dev.size.toNat = w.length - 1 ∧ t.dev.csum = checksum w.dropLast ∧ t.dev.vdone = true ∧
      t.dev.vok = decide (checksum w = 0x00) ∧ t.dev.dfault = 0 ∧
      t.diag = if checksum w = 0x00 then [.vstart, .vpass] else [.vstart, .vfail]

/-- R232: the clean session. From a good state with the device armed, the host between attempts and both channels empty,
a payload of at most `MAXPAY` bytes with no zero byte in it and a checksum that is not zero is delivered: along one
schedule of the turns (R231: `RolesCommute` says neighbouring turns may be swapped) the host ends done, with the payload
and its checksum read back, and the device armed again, its verdict OK, every cell erased, the channels empty. -/
def Obligations.CleanSessionDelivers : Prop :=
  ∀ (p : List Byte) (s : State), Good s → s.dev.phase = .dAwait →
    (s.host.phase = .hIdle ∨ s.host.phase = .hDone ∨ s.host.phase = .hFailed) → s.h2d = [] → s.d2h = [] →
    p.length ≤ Config.MAXPAY → (0x00 : Byte) ∉ p ++ [checksum p] →
    ∃ t, runMoves (sessionMoves p) s = .next t ∧
      t.host.phase = .hDone ∧ t.host.hfault = 0 ∧ t.host.rn.toNat = p.length + 1 ∧
      bufTake t.host.rb (p.length + 1) = some (p ++ [checksum p]) ∧
      t.dev.phase = .dAwait ∧ t.dev.dfault = 0 ∧ t.dev.n.toNat = p.length + 1 ∧ t.dev.size.toNat = p.length ∧
      t.dev.vdone = true ∧ t.dev.vok = true ∧ t.dev.csum = checksum p ∧
      (∀ a, a < Config.CAP → nvCell t.dev.nv a = { held := some Config.ERASED, tag := .erased }) ∧
      t.h2d = [] ∧ t.d2h = [] ∧ t.diag = [.vstart, .vpass]
end

