-- ==== Sys2Proof/Laws/State.lean ====
section
/-! SUPPORT. One lemma a field an update: what each named update of the state leaves in each field. -/

namespace Sys2Proof.Machine

variable (s : State)

@[simp] theorem setDev_dev (d : DeviceInst) : (setDev d s).dev = d := rfl
@[simp] theorem setDev_host (d : DeviceInst) : (setDev d s).host = s.host := rfl
@[simp] theorem setDev_h2d (d : DeviceInst) : (setDev d s).h2d = s.h2d := rfl
@[simp] theorem setDev_d2h (d : DeviceInst) : (setDev d s).d2h = s.d2h := rfl
@[simp] theorem setDev_diag (d : DeviceInst) : (setDev d s).diag = s.diag := rfl
@[simp] theorem setDev_reply (d : DeviceInst) : (setDev d s).reply = s.reply := rfl
@[simp] theorem setDev_agenda (d : DeviceInst) : (setDev d s).agenda = s.agenda := rfl
@[simp] theorem setDev_tick (d : DeviceInst) : (setDev d s).tick = s.tick := rfl

@[simp] theorem setHost_dev (h : HostInst) : (setHost h s).dev = s.dev := rfl
@[simp] theorem setHost_host (h : HostInst) : (setHost h s).host = h := rfl
@[simp] theorem setHost_h2d (h : HostInst) : (setHost h s).h2d = s.h2d := rfl
@[simp] theorem setHost_d2h (h : HostInst) : (setHost h s).d2h = s.d2h := rfl
@[simp] theorem setHost_diag (h : HostInst) : (setHost h s).diag = s.diag := rfl
@[simp] theorem setHost_reply (h : HostInst) : (setHost h s).reply = s.reply := rfl
@[simp] theorem setHost_agenda (h : HostInst) : (setHost h s).agenda = s.agenda := rfl
@[simp] theorem setHost_tick (h : HostInst) : (setHost h s).tick = s.tick := rfl

@[simp] theorem setReply_dev (r : Reply) : (setReply r s).dev = s.dev := rfl
@[simp] theorem setReply_host (r : Reply) : (setReply r s).host = s.host := rfl
@[simp] theorem setReply_h2d (r : Reply) : (setReply r s).h2d = s.h2d := rfl
@[simp] theorem setReply_d2h (r : Reply) : (setReply r s).d2h = s.d2h := rfl
@[simp] theorem setReply_diag (r : Reply) : (setReply r s).diag = s.diag := rfl
@[simp] theorem setReply_reply (r : Reply) : (setReply r s).reply = r := rfl
@[simp] theorem setReply_agenda (r : Reply) : (setReply r s).agenda = s.agenda := rfl
@[simp] theorem setReply_tick (r : Reply) : (setReply r s).tick = s.tick := rfl

@[simp] theorem txH2D_dev (b : Byte) : (txH2D b s).dev = s.dev := rfl
@[simp] theorem txH2D_host (b : Byte) : (txH2D b s).host = s.host := rfl
@[simp] theorem txH2D_h2d (b : Byte) : (txH2D b s).h2d = s.h2d ++ [b] := rfl
@[simp] theorem txH2D_d2h (b : Byte) : (txH2D b s).d2h = s.d2h := rfl
@[simp] theorem txH2D_diag (b : Byte) : (txH2D b s).diag = s.diag := rfl
@[simp] theorem txH2D_reply (b : Byte) : (txH2D b s).reply = s.reply := rfl
@[simp] theorem txH2D_agenda (b : Byte) : (txH2D b s).agenda = s.agenda := rfl
@[simp] theorem txH2D_tick (b : Byte) : (txH2D b s).tick = s.tick := rfl

@[simp] theorem txD2H_dev (b : Byte) : (txD2H b s).dev = s.dev := rfl
@[simp] theorem txD2H_host (b : Byte) : (txD2H b s).host = s.host := rfl
@[simp] theorem txD2H_h2d (b : Byte) : (txD2H b s).h2d = s.h2d := rfl
@[simp] theorem txD2H_d2h (b : Byte) : (txD2H b s).d2h = s.d2h ++ [b] := rfl
@[simp] theorem txD2H_diag (b : Byte) : (txD2H b s).diag = s.diag := rfl
@[simp] theorem txD2H_reply (b : Byte) : (txD2H b s).reply = s.reply := rfl
@[simp] theorem txD2H_agenda (b : Byte) : (txD2H b s).agenda = s.agenda := rfl
@[simp] theorem txD2H_tick (b : Byte) : (txD2H b s).tick = s.tick := rfl

@[simp] theorem rxH2D_dev : (rxH2D s).dev = s.dev := rfl
@[simp] theorem rxH2D_host : (rxH2D s).host = s.host := rfl
@[simp] theorem rxH2D_h2d : (rxH2D s).h2d = s.h2d.tail := rfl
@[simp] theorem rxH2D_d2h : (rxH2D s).d2h = s.d2h := rfl
@[simp] theorem rxH2D_diag : (rxH2D s).diag = s.diag := rfl
@[simp] theorem rxH2D_reply : (rxH2D s).reply = s.reply := rfl
@[simp] theorem rxH2D_agenda : (rxH2D s).agenda = s.agenda := rfl
@[simp] theorem rxH2D_tick : (rxH2D s).tick = s.tick := rfl

@[simp] theorem rxD2H_dev : (rxD2H s).dev = s.dev := rfl
@[simp] theorem rxD2H_host : (rxD2H s).host = s.host := rfl
@[simp] theorem rxD2H_h2d : (rxD2H s).h2d = s.h2d := rfl
@[simp] theorem rxD2H_d2h : (rxD2H s).d2h = s.d2h.tail := rfl
@[simp] theorem rxD2H_diag : (rxD2H s).diag = s.diag := rfl
@[simp] theorem rxD2H_reply : (rxD2H s).reply = s.reply := rfl
@[simp] theorem rxD2H_agenda : (rxD2H s).agenda = s.agenda := rfl
@[simp] theorem rxD2H_tick : (rxD2H s).tick = s.tick := rfl

@[simp] theorem raiseDevice_dev (k : ErrKind) : (raiseDevice k s).dev = { s.dev with dfault := k.code, phase := .dFault } := rfl
@[simp] theorem raiseDevice_host (k : ErrKind) : (raiseDevice k s).host = s.host := rfl
@[simp] theorem raiseDevice_h2d (k : ErrKind) : (raiseDevice k s).h2d = s.h2d := rfl
@[simp] theorem raiseDevice_d2h (k : ErrKind) : (raiseDevice k s).d2h = s.d2h := rfl
@[simp] theorem raiseDevice_diag (k : ErrKind) : (raiseDevice k s).diag = s.diag := rfl
@[simp] theorem raiseDevice_reply (k : ErrKind) : (raiseDevice k s).reply = s.reply := rfl
@[simp] theorem raiseDevice_agenda (k : ErrKind) : (raiseDevice k s).agenda = s.agenda := rfl
@[simp] theorem raiseDevice_tick (k : ErrKind) : (raiseDevice k s).tick = s.tick := rfl

@[simp] theorem raiseHost_dev (k : ErrKind) : (raiseHost k s).dev = s.dev := rfl
@[simp] theorem raiseHost_host (k : ErrKind) : (raiseHost k s).host = { s.host with
      hfault := k.code
      hs := if k = .handshakeTimeout ∨ k = .handshakeMismatch then .failed else s.host.hs
      phase := .hFailed } := rfl
@[simp] theorem raiseHost_h2d (k : ErrKind) : (raiseHost k s).h2d = s.h2d := rfl
@[simp] theorem raiseHost_d2h (k : ErrKind) : (raiseHost k s).d2h = s.d2h := rfl
@[simp] theorem raiseHost_diag (k : ErrKind) : (raiseHost k s).diag = s.diag := rfl
@[simp] theorem raiseHost_reply (k : ErrKind) : (raiseHost k s).reply = s.reply := rfl
@[simp] theorem raiseHost_agenda (k : ErrKind) : (raiseHost k s).agenda = s.agenda := rfl
@[simp] theorem raiseHost_tick (k : ErrKind) : (raiseHost k s).tick = s.tick := rfl

@[simp] theorem resetDevice_dev : (resetDevice s).dev = { DeviceInst.reset with nv := nvForgetTags s.dev.nv } := rfl
@[simp] theorem resetDevice_host : (resetDevice s).host = s.host := rfl
@[simp] theorem resetDevice_h2d : (resetDevice s).h2d = s.h2d := rfl
@[simp] theorem resetDevice_d2h : (resetDevice s).d2h = s.d2h := rfl
@[simp] theorem resetDevice_diag : (resetDevice s).diag = s.diag := rfl
@[simp] theorem resetDevice_reply : (resetDevice s).reply = s.reply := rfl
@[simp] theorem resetDevice_agenda : (resetDevice s).agenda = s.agenda := rfl
@[simp] theorem resetDevice_tick : (resetDevice s).tick = s.tick := rfl

@[simp] theorem resetHost_dev : (resetHost s).dev = s.dev := rfl
@[simp] theorem resetHost_host : (resetHost s).host = HostInst.reset := rfl
@[simp] theorem resetHost_h2d : (resetHost s).h2d = s.h2d := rfl
@[simp] theorem resetHost_d2h : (resetHost s).d2h = s.d2h := rfl
@[simp] theorem resetHost_diag : (resetHost s).diag = s.diag := rfl
@[simp] theorem resetHost_reply : (resetHost s).reply = s.reply := rfl
@[simp] theorem resetHost_agenda : (resetHost s).agenda = s.agenda := rfl
@[simp] theorem resetHost_tick : (resetHost s).tick = s.tick := rfl

@[simp] theorem powerCycle_dev : (powerCycle s).dev = { DeviceInst.reset with nv := nvForgetTags s.dev.nv } := rfl
@[simp] theorem powerCycle_host : (powerCycle s).host = HostInst.reset := rfl
@[simp] theorem powerCycle_h2d : (powerCycle s).h2d = [] := rfl
@[simp] theorem powerCycle_d2h : (powerCycle s).d2h = [] := rfl
@[simp] theorem powerCycle_diag : (powerCycle s).diag = [] := rfl
@[simp] theorem powerCycle_reply : (powerCycle s).reply = .none := rfl
@[simp] theorem powerCycle_agenda : (powerCycle s).agenda = s.agenda := rfl
@[simp] theorem powerCycle_tick : (powerCycle s).tick = s.tick := rfl

/-! ## The updates of one instance -/

@[simp] theorem encodeInto_acc (p : List Byte) (h : HostInst) : (encodeInto p h).acc = checksum p := rfl
@[simp] theorem encodeInto_phase (p : List Byte) (h : HostInst) : (encodeInto p h).phase = h.phase := rfl
@[simp] theorem encodeInto_hs (p : List Byte) (h : HostInst) : (encodeInto p h).hs = h.hs := rfl
@[simp] theorem encodeInto_payload (p : List Byte) (h : HostInst) : (encodeInto p h).payload = h.payload := rfl
@[simp] theorem encodeInto_frame (p : List Byte) (h : HostInst) : (encodeInto p h).frame = bufFrom 0 (encodeFrame p) := rfl
@[simp] theorem encodeInto_flen (p : List Byte) (h : HostInst) : (encodeInto p h).flen = BitVec.ofNat 12 (p.length + 2) := rfl
@[simp] theorem encodeInto_ti (p : List Byte) (h : HostInst) : (encodeInto p h).ti = h.ti := rfl
@[simp] theorem encodeInto_rb (p : List Byte) (h : HostInst) : (encodeInto p h).rb = h.rb := rfl
@[simp] theorem encodeInto_rn (p : List Byte) (h : HostInst) : (encodeInto p h).rn = h.rn := rfl
@[simp] theorem encodeInto_hfault (p : List Byte) (h : HostInst) : (encodeInto p h).hfault = h.hfault := rfl
@[simp] theorem encodeInto_fiMode (p : List Byte) (h : HostInst) : (encodeInto p h).fiMode = h.fiMode := rfl
@[simp] theorem encodeInto_fiOffset (p : List Byte) (h : HostInst) : (encodeInto p h).fiOffset = h.fiOffset := rfl
@[simp] theorem encodeInto_fiValue (p : List Byte) (h : HostInst) : (encodeInto p h).fiValue = h.fiValue := rfl

@[simp] theorem nvChange_acc (a : Cnt) (f : NvCell → NvCell) (d : DeviceInst) : (nvChange a f d).acc = d.acc := by
  unfold nvChange
  split <;> rfl
@[simp] theorem nvChange_buf (a : Cnt) (f : NvCell → NvCell) (d : DeviceInst) : (nvChange a f d).buf = d.buf := by
  unfold nvChange
  split <;> rfl
@[simp] theorem nvChange_phase (a : Cnt) (f : NvCell → NvCell) (d : DeviceInst) : (nvChange a f d).phase = d.phase := by
  unfold nvChange
  split <;> rfl
@[simp] theorem nvChange_hs (a : Cnt) (f : NvCell → NvCell) (d : DeviceInst) : (nvChange a f d).hs = d.hs := by
  unfold nvChange
  split <;> rfl
@[simp] theorem nvChange_ea (a : Cnt) (f : NvCell → NvCell) (d : DeviceInst) : (nvChange a f d).ea = d.ea := by
  unfold nvChange
  split <;> rfl
@[simp] theorem nvChange_n (a : Cnt) (f : NvCell → NvCell) (d : DeviceInst) : (nvChange a f d).n = d.n := by
  unfold nvChange
  split <;> rfl
@[simp] theorem nvChange_size (a : Cnt) (f : NvCell → NvCell) (d : DeviceInst) : (nvChange a f d).size = d.size := by
  unfold nvChange
  split <;> rfl
@[simp] theorem nvChange_ri (a : Cnt) (f : NvCell → NvCell) (d : DeviceInst) : (nvChange a f d).ri = d.ri := by
  unfold nvChange
  split <;> rfl
@[simp] theorem nvChange_csum (a : Cnt) (f : NvCell → NvCell) (d : DeviceInst) : (nvChange a f d).csum = d.csum := by
  unfold nvChange
  split <;> rfl
@[simp] theorem nvChange_vdone (a : Cnt) (f : NvCell → NvCell) (d : DeviceInst) : (nvChange a f d).vdone = d.vdone := by
  unfold nvChange
  split <;> rfl
@[simp] theorem nvChange_vok (a : Cnt) (f : NvCell → NvCell) (d : DeviceInst) : (nvChange a f d).vok = d.vok := by
  unfold nvChange
  split <;> rfl
@[simp] theorem nvChange_dfault (a : Cnt) (f : NvCell → NvCell) (d : DeviceInst) : (nvChange a f d).dfault = d.dfault := by
  unfold nvChange
  split <;> rfl

@[simp] theorem nvChange_nvfault (a : Cnt) (f : NvCell → NvCell) (d : DeviceInst) :
    (nvChange a f d).nvfault = (nvRefuses a || d.nvfault) := by
  unfold nvChange
  split <;> simp_all

@[simp] theorem nvChange_nv (a : Cnt) (f : NvCell → NvCell) (d : DeviceInst) :
    (nvChange a f d).nv = if nvRefuses a then d.nv else nvPut d.nv a.toNat (f (nvCell d.nv a.toNat)) := by
  unfold nvChange
  split <;> rfl

theorem nvWriteByte_eq (a : Cnt) (b : Byte) (d : DeviceInst) : nvWriteByte a b d = nvChange a (fun c => writtenCell a.toNat c b) d := rfl
theorem nvEraseWrite_eq (a : Cnt) (b : Byte) (d : DeviceInst) : nvEraseWrite a b d = nvChange a (fun _ => programmedCell b) d := rfl
theorem nvEraseCell_eq (a : Cnt) (d : DeviceInst) : nvEraseCell a d = nvChange a (fun _ => erasedCell) d := rfl

/-! ## The beginning of a move -/

@[simp] theorem beginMove_dev : (beginMove s).dev = s.dev := by
  unfold beginMove
  split <;> rfl
@[simp] theorem beginMove_host : (beginMove s).host = s.host := by
  unfold beginMove
  split <;> rfl
@[simp] theorem beginMove_h2d : (beginMove s).h2d = s.h2d := by
  unfold beginMove
  split <;> rfl
@[simp] theorem beginMove_d2h : (beginMove s).d2h = s.d2h := by
  unfold beginMove
  split <;> rfl
@[simp] theorem beginMove_diag : (beginMove s).diag = [] := by
  unfold beginMove
  split <;> rfl
@[simp] theorem beginMove_reply : (beginMove s).reply = .none := by
  unfold beginMove
  split <;> rfl

end Sys2Proof.Machine
end

