-- ==== Sys2Proof/Laws/Table.lean ====
section
/-! SUPPORT. Tables and byte buffers: read after write, and the canonical form kept. -/

namespace Sys2Proof.Machine

variable {α : Type}

/-- Read after write: the new value at its key, every other key as before. -/
theorem tabGet_tabSet (m : List (Nat × α)) (a x : Nat) (v : α) :
    tabGet (tabSet m a v) x = if x = a then some v else tabGet m x := by
  induction m with
  | nil => simp only [tabSet, tabGet, eq_comm]
  | cons e r ih =>
    obtain ⟨k, w⟩ := e
    simp only [tabSet]
    split_ifs with h1 h2 h3 h3 <;> simp_all [tabGet] <;> grind

/-- After a key is erased it is not listed, and every other key is as before. -/
theorem tabGet_tabErase (m : List (Nat × α)) (a x : Nat) :
    tabGet (tabErase m a) x = if x = a then none else tabGet m x := by
  unfold tabErase
  induction m with
  | nil => simp [tabGet]
  | cons e r ih =>
    obtain ⟨k, w⟩ := e
    by_cases h : k = a
    · subst h
      simp only [ne_eq, not_true_eq_false, decide_false, Bool.false_eq_true, not_false_eq_true, List.filter_cons_of_neg,
        ih, tabGet]
      grind
    · simp only [ne_eq, h, not_false_eq_true, decide_true, List.filter_cons_of_pos, tabGet, ih]
      grind

/-- What a write can leave among the entries. -/
theorem mem_tabSet {m : List (Nat × α)} {a : Nat} {v : α} {e : Nat × α} (h : e ∈ tabSet m a v) :
    e = (a, v) ∨ e ∈ m := by
  induction m with
  | nil => simpa [tabSet] using h
  | cons x r ih =>
    obtain ⟨k, w⟩ := x
    simp only [tabSet] at h
    split_ifs at h <;> simp_all <;> tauto

/-- A write keeps the keys rising. -/
theorem rising_tabSet {m : List (Nat × α)} (a : Nat) (v : α) (h : Rising m) : Rising (tabSet m a v) := by
  induction m with
  | nil => simp [tabSet]
  | cons x r ih =>
    obtain ⟨k, w⟩ := x
    obtain ⟨hk, hr⟩ := List.pairwise_cons.mp h
    simp only [tabSet]
    split_ifs with h1 h2
    · refine List.pairwise_cons.mpr ⟨fun y hy => ?_, h⟩
      rcases List.mem_cons.mp hy with rfl | hy
      · exact h1
      · exact Nat.lt_trans h1 (hk y hy)
    · exact List.pairwise_cons.mpr ⟨fun y hy => h2 ▸ hk y hy, hr⟩
    · refine List.pairwise_cons.mpr ⟨fun y hy => ?_, ih hr⟩
      rcases mem_tabSet hy with rfl | hy
      · show k < a
        omega
      · exact hk y hy

/-- A write inside the capacity keeps the keys inside it. -/
theorem keysBelow_tabSet {cap : Nat} {m : List (Nat × α)} {a : Nat} (v : α) (ha : a < cap) (h : KeysBelow cap m) :
    KeysBelow cap (tabSet m a v) := fun e he => by
  rcases mem_tabSet he with rfl | he
  · exact ha
  · exact h e he

/-- Erasing a key keeps the keys rising. -/
theorem rising_tabErase {m : List (Nat × α)} (a : Nat) (h : Rising m) : Rising (tabErase m a) :=
  List.Pairwise.filter _ h

/-- Every entry left by an erase was there before. -/
theorem mem_of_mem_tabErase {m : List (Nat × α)} {a : Nat} {e : Nat × α} (h : e ∈ tabErase m a) : e ∈ m :=
  List.mem_of_mem_filter h

/-- A listed value belongs to an entry. -/
theorem mem_of_tabGet {m : List (Nat × α)} {a : Nat} {v : α} (h : tabGet m a = some v) : (a, v) ∈ m := by
  induction m with
  | nil => simp [tabGet] at h
  | cons x r ih =>
    obtain ⟨k, w⟩ := x
    simp only [tabGet] at h
    split_ifs at h with hk
    · simp_all
    · exact List.mem_cons_of_mem _ (ih h)

/-- In a canonical table an entry's value is what its key reads as. -/
theorem tabGet_of_mem {m : List (Nat × α)} {a : Nat} {v : α} (hm : Rising m) (h : (a, v) ∈ m) :
    tabGet m a = some v := by
  induction m with
  | nil => simp at h
  | cons x r ih =>
    obtain ⟨k, w⟩ := x
    obtain ⟨hk, hr⟩ := List.pairwise_cons.mp hm
    rcases List.mem_cons.mp h with h | h
    · simp_all [tabGet]
    · have hlt := hk _ h
      rw [tabGet, if_neg (by simp only at hlt; omega)]
      exact ih hr h

/-! ## Byte buffers -/

/-- A write inside its capacity keeps a buffer's canonical form. -/
theorem Buf.wf_tabSet {cap : Nat} {m : Buf} {a : Nat} (b : Byte) (ha : a < cap) (h : Buf.wf cap m) :
    Buf.wf cap (tabSet m a b) :=
  ⟨rising_tabSet a b h.1, keysBelow_tabSet b ha h.2⟩

/-- Every entry of a buffer filled from `k` on has a key of the range. -/
theorem mem_bufFrom {bs : List Byte} {k : Nat} {e : Nat × Byte} (h : e ∈ bufFrom k bs) :
    k ≤ e.1 ∧ e.1 < k + bs.length := by
  induction bs generalizing k with
  | nil => simp [bufFrom] at h
  | cons b bs ih =>
    rcases List.mem_cons.mp h with rfl | h
    · exact ⟨Nat.le_refl _, by simp⟩
    · have := ih h
      simp only [List.length_cons]
      omega

/-- A filled buffer is in canonical form. -/
theorem Buf.wf_bufFrom {bs : List Byte} {k cap : Nat} (h : k + bs.length ≤ cap) : Buf.wf cap (bufFrom k bs) := by
  refine ⟨?_, fun e he => by have := mem_bufFrom he; omega⟩
  induction bs generalizing k with
  | nil => simp [bufFrom]
  | cons b bs ih =>
    simp only [List.length_cons] at h
    refine List.pairwise_cons.mpr ⟨fun y hy => ?_, ih (by omega)⟩
    have := mem_bufFrom hy
    show k < y.1
    omega

/-- What a buffer filled from `k` on reads as. -/
theorem tabGet_bufFrom (bs : List Byte) (k x : Nat) :
    tabGet (bufFrom k bs) x = if k ≤ x then bs[x - k]? else none := by
  induction bs generalizing k with
  | nil => simp [bufFrom, tabGet]
  | cons b bs ih =>
    simp only [bufFrom, tabGet, ih]
    rcases Nat.lt_trichotomy k x with h | h | h
    · rw [if_neg (by omega), if_pos (by omega), if_pos (by omega)]
      obtain ⟨d, hd⟩ : ∃ d, x - k = d + 1 := ⟨x - k - 1, by omega⟩
      rw [hd, List.getElem?_cons_succ]
      congr 1
      omega
    · subst h
      simp
    · rw [if_neg (by omega), if_neg (by omega), if_neg (by omega)]

/-- The first `k` bytes are as many as `k`. -/
theorem bufTake_length {m : Buf} {k : Nat} {w : List Byte} (h : bufTake m k = some w) : w.length = k := by
  induction k generalizing w with
  | zero => simp_all [bufTake]
  | succ k ih =>
    simp only [bufTake] at h
    split at h
    · next xs b h1 h2 =>
      obtain rfl := Option.some.inj h
      simp [ih h1]
    · simp at h

/-- The first `k` bytes can be read exactly when each of them has been written. -/
theorem bufTake_isSome {m : Buf} {k : Nat} :
    (bufTake m k).isSome = true ↔ ∀ i, i < k → (tabGet m i).isSome = true := by
  induction k with
  | zero => simp [bufTake]
  | succ k ih =>
    simp only [bufTake]
    constructor
    · intro h i hi
      split at h
      · next xs b h1 h2 =>
        rcases Nat.lt_succ_iff_lt_or_eq.mp hi with hi | rfl
        · exact ih.mp (by simp [h1]) i hi
        · simp [h2]
      · simp at h
    · intro h
      obtain ⟨xs, hxs⟩ := Option.isSome_iff_exists.mp (ih.mpr fun i hi => h i (by omega))
      obtain ⟨b, hb⟩ := Option.isSome_iff_exists.mp (h k (by omega))
      simp [hxs, hb]

/-- Reading the first bytes depends on those entries only. -/
theorem bufTake_congr {m m' : Buf} {k : Nat} (h : ∀ i, i < k → tabGet m i = tabGet m' i) :
    bufTake m k = bufTake m' k := by
  induction k with
  | zero => rfl
  | succ k ih =>
    rw [bufTake, bufTake, ih fun i hi => h i (by omega), h k (by omega)]

/-- A write at the end lengthens what can be read by one byte. -/
theorem bufTake_tabSet_succ {m : Buf} {k : Nat} {w : List Byte} (b : Byte) (h : bufTake m k = some w) :
    bufTake (tabSet m k b) (k + 1) = some (w ++ [b]) := by
  have h1 : bufTake (tabSet m k b) k = some w := by
    rw [← h]
    refine bufTake_congr fun i hi => ?_
    rw [tabGet_tabSet, if_neg (by omega)]
  rw [bufTake, h1, tabGet_tabSet]
  simp

/-- The first bytes of a filled buffer. -/
theorem bufTake_bufFrom (w : List Byte) {k : Nat} (h : k ≤ w.length) : bufTake (bufFrom 0 w) k = some (w.take k) := by
  induction k with
  | zero => simp [bufTake]
  | succ k ih =>
    have hk : k < w.length := by omega
    rw [bufTake, ih (by omega), tabGet_bufFrom, if_pos (Nat.zero_le k), Nat.sub_zero, List.getElem?_eq_getElem hk]
    simp only [List.take_add_one, List.getElem?_eq_getElem hk, Option.toList]

end Sys2Proof.Machine
end

