-- ==== Sys2Proof/Laws/Memory.lean ====
section
/-! SUPPORT. The NV array: what each storage operation leaves in each cell, and the canonical form kept by every memory
operation. -/

namespace Sys2Proof.Machine

/-- Read after a cell is put: the new cell at its address, every other cell as before. -/
theorem nvCell_nvPut (m : NvMem) (a x : Nat) (c : NvCell) :
    nvCell (nvPut m a c) x = if x = a then c else nvCell m x := by
  unfold nvPut nvCell
  by_cases hc : c = untouched
  · rw [if_pos hc, tabGet_tabErase]
    split <;> simp [hc]
  · rw [if_neg hc, tabGet_tabSet]
    split <;> rfl

/-- An address is refused exactly where it does not fit the `AW` bits of an NV address (R60, R106, R156). -/
theorem nvRefuses_eq_decide (a : Cnt) : nvRefuses a = decide (2 ^ Config.AW ≤ a.toNat) := rfl

/-- `AW` and `CW` are the least widths R8 asks for. -/
theorem widths_least (w : Nat) : (Config.CAP ≤ 2 ^ w ↔ Config.AW ≤ w) ∧ (Config.CAP < 2 ^ w ↔ Config.CW ≤ w) := by
  have h11 : Config.CAP = 2 ^ Config.AW := rfl
  rw [h11, Nat.pow_le_pow_iff_right (by decide), Nat.pow_lt_pow_iff_right (by decide)]
  exact ⟨Iff.rfl, Iff.rfl⟩

/-- Everything a storage command that changes a cell can do to the array. -/
theorem nvCell_nvChange (a : Cnt) (f : NvCell → NvCell) (d : DeviceInst) (x : Nat) :
    nvCell (nvChange a f d).nv x =
      if nvRefuses a = false ∧ x = a.toNat then f (nvCell d.nv x) else nvCell d.nv x := by
  rw [nvChange_nv]
  cases h : nvRefuses a
  · simp only [Bool.false_eq_true, if_false, true_and, nvCell_nvPut]
    split
    · next hx => rw [hx]
    · rfl
  · simp

/-- Putting a cell inside the address range keeps the canonical form. -/
theorem NvMem.wf_nvPut {m : NvMem} {a : Nat} (c : NvCell) (ha : a < Config.CAP) (h : NvMem.wf m) :
    NvMem.wf (nvPut m a c) := by
  obtain ⟨h1, h2, h3⟩ := h
  unfold nvPut
  split
  · exact ⟨rising_tabErase a h1, fun e he => h2 e (mem_of_mem_tabErase he), fun e he => h3 e (mem_of_mem_tabErase he)⟩
  · next hc =>
    refine ⟨rising_tabSet a c h1, keysBelow_tabSet c ha h2, fun e he => ?_⟩
    rcases mem_tabSet he with rfl | he
    · exact hc
    · exact h3 e he

/-- Every storage command keeps the canonical form. -/
theorem NvMem.wf_nvChange {d : DeviceInst} (a : Cnt) (f : NvCell → NvCell) (h : NvMem.wf d.nv) :
    NvMem.wf (nvChange a f d).nv := by
  rw [nvChange_nv]
  split
  · exact h
  · next hr => exact NvMem.wf_nvPut _ (by simpa [nvRefuses] using hr) h

theorem NvMem.wf_nvWriteByte {d : DeviceInst} (a : Cnt) (b : Byte) (h : NvMem.wf d.nv) :
    NvMem.wf (nvWriteByte a b d).nv := NvMem.wf_nvChange a _ h

theorem NvMem.wf_nvEraseCell {d : DeviceInst} (a : Cnt) (h : NvMem.wf d.nv) :
    NvMem.wf (nvEraseCell a d).nv := NvMem.wf_nvChange a _ h

theorem NvMem.wf_nvEraseWrite {d : DeviceInst} (a : Cnt) (b : Byte) (h : NvMem.wf d.nv) :
    NvMem.wf (nvEraseWrite a b d).nv := NvMem.wf_nvChange a _ h

/-- Forgetting the tags keeps the canonical form. -/
theorem NvMem.wf_nvForgetTags {m : NvMem} (h : NvMem.wf m) : NvMem.wf (nvForgetTags m) := by
  obtain ⟨h1, h2, _⟩ := h
  refine ⟨List.Pairwise.filter _ (List.Pairwise.map _ (fun x y hxy => hxy) h1), fun e he => ?_, fun e he => ?_⟩
  · obtain ⟨e', he', rfl⟩ := List.mem_map.mp (List.mem_of_mem_filter he)
    exact h2 e' he'
  · simpa using (List.mem_filter.mp he).2

/-- What forgetting the tags leaves in each cell: its byte, and the tag `UNKNOWN`. -/
theorem nvCell_nvForgetTags {m : NvMem} (h : Rising m) (x : Nat) :
    nvCell (nvForgetTags m) x = { nvCell m x with tag := .unknown } := by
  induction m with
  | nil => rfl
  | cons e r ih =>
    obtain ⟨k, c⟩ := e
    obtain ⟨hk, hr⟩ := List.pairwise_cons.mp h
    specialize ih hr
    by_cases hx : k = x
    · subst hx
      have hnone : tabGet (nvForgetTags r) k = none := by
        cases hg : tabGet (nvForgetTags r) k with
        | none => rfl
        | some v =>
          obtain ⟨e', he', hv⟩ := List.mem_map.mp (List.mem_of_mem_filter (mem_of_tabGet hg))
          have h1 := hk e' he'
          have h2 := congrArg Prod.fst hv
          simp only at h1 h2
          omega
      simp only [nvForgetTags] at hnone
      simp only [nvForgetTags, List.map_cons, List.filter_cons]
      split
      · simp [nvCell, tabGet]
      · next hc =>
        have hu : ({ c with tag := CellTag.unknown } : NvCell) = untouched := by simpa using hc
        simp only [nvCell, hnone, tabGet, if_pos, Option.getD_none, Option.getD_some]
        exact hu.symm
    · have hsame : nvCell ((k, c) :: r) x = nvCell r x := by simp [nvCell, tabGet, hx]
      rw [hsame, ← ih]
      simp only [nvForgetTags, List.map_cons, List.filter_cons]
      split
      · simp [nvCell, tabGet, hx]
      · rfl

/-- What `FRAME` reads as after FC.ENCODE. -/
theorem tabGet_encodeInto (p : List Byte) (h : HostInst) (k : Nat) :
    tabGet (encodeInto p h).frame k = (p ++ [checksum p] ++ [Config.TERM])[k]? := by
  rw [encodeInto_frame, tabGet_bufFrom, if_pos (Nat.zero_le k), Nat.sub_zero, encodeFrame]

/-- Everything the injector can do to `FRAME`: at most the one byte at its offset changes. -/
theorem tabGet_fiApplied {mode : BitVec 2} {offset : Cnt} {value : Byte} {frame f : Buf}
    (h : fiApplied mode offset value frame = some f) (k : Nat) :
    tabGet f k =
      if mode = fiFlip ∧ k = offset.toNat then (tabGet frame k).map (· ^^^ value)
      else if mode = fiReplace ∧ k = offset.toNat then some value
      else tabGet frame k := by
  unfold fiApplied at h
  split_ifs at h with h1 h2
  · obtain ⟨old, ho, rfl⟩ := Option.map_eq_some_iff.mp h
    rw [tabGet_tabSet]
    by_cases hk : k = offset.toNat
    · simp [hk, h1, ho]
    · simp [hk]
  · obtain rfl := Option.some.inj h
    rw [tabGet_tabSet]
    by_cases hk : k = offset.toNat <;> simp [hk, h2, fiFlip, fiReplace]
  · obtain rfl := Option.some.inj h
    simp [h1, h2]

/-- The frame buffer is in canonical form after FC.ENCODE of a payload that fits. -/
theorem Buf.wf_encodeInto {p : List Byte} {h : HostInst} (hp : p.length ≤ Config.MAXPAY) :
    Buf.wf (Config.CAP + 1) (encodeInto p h).frame := by
  refine Buf.wf_bufFrom ?_
  simp only [Config.MAXPAY, Config.CAP] at hp
  simp [encodeFrame, Config.CAP]
  omega

/-- The injector keeps the frame's canonical form, its offset being inside the capacity. -/
theorem Buf.wf_fiApplied {mode : BitVec 2} {offset : Cnt} {value : Byte} {frame f : Buf}
    (ho : mode = fiOff ∨ offset.toNat < Config.CAP + 1) (hf : Buf.wf (Config.CAP + 1) frame)
    (h : fiApplied mode offset value frame = some f) : Buf.wf (Config.CAP + 1) f := by
  unfold fiApplied at h
  split_ifs at h with h1 h2
  · obtain ⟨old, _, rfl⟩ := Option.map_eq_some_iff.mp h
    exact Buf.wf_tabSet _ (ho.resolve_left (by simp [h1, fiFlip, fiOff])) hf
  · obtain rfl := Option.some.inj h
    exact Buf.wf_tabSet _ (ho.resolve_left (by simp [h2, fiReplace, fiOff])) hf
  · obtain rfl := Option.some.inj h
    exact hf

/-- The memory after power-on is in canonical form. -/
theorem Memory.wf_reset : Memory.wf State.reset := by
  refine ⟨⟨?_, ?_, ?_⟩, ⟨?_, ?_⟩, ⟨?_, ?_⟩, ?_, ?_⟩ <;> simp [State.reset, DeviceInst.reset, HostInst.reset]

end Sys2Proof.Machine
end

