-- ==== Sys2Proof/Laws/Ops.lean ====
section
/-! SUPPORT. What the shared operations can do, once each: the guard of a sequencer operation, the codes, the checksum
over an appended byte, the channels. -/

namespace Sys2Proof.Machine

/-- A guarded operation answers its effect where it is enabled and the same state where it is not. -/
theorem whenEnabled_next {i : Instr} {s t : State} {e : Host.Outcome State Fault Refusal}
    (h : whenEnabled i s e = .next t) : (enabled i s = true ∧ e = .next t) ∨ (enabled i s = false ∧ t = s) := by
  unfold whenEnabled at h
  cases he : enabled i s
  · rw [he] at h
    exact .inr ⟨rfl, by simpa using h.symm⟩
  · rw [he] at h
    exact .inl ⟨rfl, by simpa using h⟩

theorem whenEnabled_of_enabled {i : Instr} {s : State} (e : Host.Outcome State Fault Refusal)
    (h : enabled i s = true) : whenEnabled i s e = e := by simp [whenEnabled, h]

/-- A checksum over one more byte (R134). -/
theorem checksum_append (s : List Byte) (b : Byte) : checksum (s ++ [b]) = crcByte (checksum s) b := by
  simp [checksum]

@[simp] theorem checksum_nil : checksum [] = Config.CRC_INIT := rfl

/-- The phase codes read back (R109, R110). -/
@[simp] theorem DPhase.ofCode_code (p : DPhase) : DPhase.ofCode p.code = p := by cases p <;> rfl

@[simp] theorem HPhase.ofCode_code (p : HPhase) : HPhase.ofCode p.code = p := by cases p <;> rfl

/-- A byte the bench shows role `r`, wire value or data, is taken as the role's phase decodes it (R101, R102, log 13). -/
theorem makeMove_bench_w8 (r : Role) (b : Byte) (s : State) : makeMove (.bench (.w8 r b)) s = roleTakes r b s := by
  simp only [makeMove, fetched, decode, decodeW8]
  split
  · next i hi =>
    split_ifs at hi with h1 h2 h3
    · cases hi; rw [h1]; rfl
    · cases hi; rw [h2]; rfl
    · cases hi; rw [h3]; rfl
  · next e he =>
    split_ifs at he
    cases he
    rfl

/-- The fields of a 22-bit word read back (R106, R108). -/
@[simp] theorem wordTop_word22 (t : BitVec 2) (m : Cnt) (l : Byte) : wordTop (word22 t m l) = t := by
  refine BitVec.eq_of_getLsbD_eq fun i hi => ?_
  rw [wordTop, BitVec.getLsbD_extractLsb', word22]
  show (decide (i < 2) && BitVec.getLsbD (w := 2 + 12 + 8) (t ++ m ++ l) (20 + i)) = _
  rw [BitVec.getLsbD_append, BitVec.getLsbD_append, if_neg (by omega), if_neg (by omega)]
  simp [hi, show 20 + i - 8 - 12 = i by omega]

@[simp] theorem wordMid_word22 (t : BitVec 2) (m : Cnt) (l : Byte) : wordMid (word22 t m l) = m := by
  refine BitVec.eq_of_getLsbD_eq fun i hi => ?_
  rw [wordMid, BitVec.getLsbD_extractLsb', word22]
  show (decide (i < 12) && BitVec.getLsbD (w := 2 + 12 + 8) (t ++ m ++ l) (8 + i)) = _
  rw [BitVec.getLsbD_append, BitVec.getLsbD_append, if_neg (by omega), if_pos (by omega)]
  simp [hi]

@[simp] theorem wordLow_word22 (t : BitVec 2) (m : Cnt) (l : Byte) : wordLow (word22 t m l) = l := by
  refine BitVec.eq_of_getLsbD_eq fun i hi => ?_
  rw [wordLow, BitVec.getLsbD_extractLsb', word22]
  show (decide (i < 8) && BitVec.getLsbD (w := 2 + 12 + 8) (t ++ m ++ l) (0 + i)) = _
  rw [BitVec.getLsbD_append, if_pos (by omega)]
  simp [hi]

/-- A run over two lists of moves is a run over the first and then over the second. -/
theorem runMoves_append {ms ns : List Move} {s t : State} (h : runMoves ms s = .next t) :
    runMoves (ms ++ ns) s = runMoves ns t := by
  induction ms generalizing s with
  | nil =>
    simp only [runMoves, Host.Outcome.next.injEq] at h
    rw [List.nil_append, h]
  | cons m ms ih =>
    simp only [runMoves, List.cons_append] at h ⊢
    split at h
    · exact ih h
    · cases h
    · cases h

end Sys2Proof.Machine
end

