-- ==== Sys2Proof/Laws/PerInstr.lean ====
section
/-! SUPPORT. Per-instruction lemmas: family `Format`, the encoder uses for each operation the format that
opcode_table.json names for its row. -/

namespace Sys2Proof.Laws

/-- The format of an encoding, as the table's column names it; `SEQ` stands for `SEQ+W8` too, the byte being part of the
`SEQ` word. -/
def formatOf : Encoding → String
  | .cec _ _ => "CEC"
  | .nvc _ => "NVC"
  | .fic _ => "FIC"
  | .w8 _ _ => "W8"
  | .dev _ => "SEQ"
  | .host _ => "SEQ"
  | .reset _ => "EVENT"
  | .payload _ => "FRM"
  | .classify _ => "W8"
  | .window _ => "FRM"
  | .raw _ _ => "RAW"

/-- The format the table names for an operation's row. -/
def tableFormat : Instr → String
  | .crcClr _ => "CEC"
  | .crcByte _ _ => "CEC"
  | .crcBit _ => "CEC"
  | .nvRead _ => "NVC"
  | .nvWrite _ _ => "NVC"
  | .nvErase _ => "NVC"
  | .nvErwr _ _ => "NVC"
  | .fcEncode _ => "FRM"
  | .fcClassify _ => "W8"
  | .fiApply _ _ _ => "FIC"
  | .ivVerify _ => "FRM"
  | .hsDArm => "SEQ"
  | .hsDSkip _ => "SEQ"
  | .hsDReq => "SEQ"
  | .hsDAck => "SEQ"
  | .hsHReq => "SEQ"
  | .hsHAck => "SEQ"
  | .hsHNak _ => "SEQ"
  | .hsHTimeout => "SEQ"
  | .dsErase => "SEQ"
  | .dsRxData _ => "SEQ"
  | .dsRxTerm => "SEQ"
  | .dsRxOver _ => "SEQ"
  | .dsRxEmpty => "SEQ"
  | .dsVerify => "SEQ"
  | .dsCommit => "SEQ"
  | .dsRbByte => "SEQ"
  | .dsRbTerm => "SEQ"
  | .lsStart _ _ _ _ => "SEQ"
  | .lsEncode => "SEQ"
  | .lsTx => "SEQ"
  | .lsRbData _ => "SEQ"
  | .lsRbTerm => "SEQ"
  | .lsRbOver _ => "SEQ"
  | .lsRbTimeout => "SEQ"
  | .lsLinkfail => "SEQ"
  | .reset _ => "EVENT"
  | .tokReq _ => "W8"
  | .tokAck _ => "W8"
  | .term _ => "W8"

/-- The encoder uses the table's format. -/
def Format.Statement (i : Instr) : Prop := formatOf (encode i) = tableFormat i

theorem Format.crcClr (r : Role) : Format.Statement (.crcClr r) := rfl
theorem Format.crcByte (r : Role) (b : Byte) : Format.Statement (.crcByte r b) := rfl
theorem Format.crcBit (r : Role) : Format.Statement (.crcBit r) := rfl
theorem Format.nvRead (a : Cnt) : Format.Statement (.nvRead a) := rfl
theorem Format.nvWrite (a : Cnt) (b : Byte) : Format.Statement (.nvWrite a b) := rfl
theorem Format.nvErase (a : Cnt) : Format.Statement (.nvErase a) := rfl
theorem Format.nvErwr (a : Cnt) (b : Byte) : Format.Statement (.nvErwr a b) := rfl
theorem Format.fcEncode (p : List Byte) : Format.Statement (.fcEncode p) := rfl
theorem Format.fcClassify (b : Byte) : Format.Statement (.fcClassify b) := rfl
theorem Format.fiApply (mode : BitVec 2) (offset : Cnt) (value : Byte) : Format.Statement (.fiApply mode offset value) := rfl
theorem Format.ivVerify (w : List Byte) : Format.Statement (.ivVerify w) := rfl
theorem Format.hsDArm : Format.Statement .hsDArm := rfl
theorem Format.hsDSkip (b : Byte) : Format.Statement (.hsDSkip b) := rfl
theorem Format.hsDReq : Format.Statement .hsDReq := rfl
theorem Format.hsDAck : Format.Statement .hsDAck := rfl
theorem Format.hsHReq : Format.Statement .hsHReq := rfl
theorem Format.hsHAck : Format.Statement .hsHAck := rfl
theorem Format.hsHNak (b : Byte) : Format.Statement (.hsHNak b) := rfl
theorem Format.hsHTimeout : Format.Statement .hsHTimeout := rfl
theorem Format.dsErase : Format.Statement .dsErase := rfl
theorem Format.dsRxData (b : Byte) : Format.Statement (.dsRxData b) := rfl
theorem Format.dsRxTerm : Format.Statement .dsRxTerm := rfl
theorem Format.dsRxOver (b : Byte) : Format.Statement (.dsRxOver b) := rfl
theorem Format.dsRxEmpty : Format.Statement .dsRxEmpty := rfl
theorem Format.dsVerify : Format.Statement .dsVerify := rfl
theorem Format.dsCommit : Format.Statement .dsCommit := rfl
theorem Format.dsRbByte : Format.Statement .dsRbByte := rfl
theorem Format.dsRbTerm : Format.Statement .dsRbTerm := rfl
theorem Format.lsStart (p : List Byte) (mode : BitVec 2) (offset : Cnt) (value : Byte) : Format.Statement (.lsStart p mode offset value) := rfl
theorem Format.lsEncode : Format.Statement .lsEncode := rfl
theorem Format.lsTx : Format.Statement .lsTx := rfl
theorem Format.lsRbData (b : Byte) : Format.Statement (.lsRbData b) := rfl
theorem Format.lsRbTerm : Format.Statement .lsRbTerm := rfl
theorem Format.lsRbOver (b : Byte) : Format.Statement (.lsRbOver b) := rfl
theorem Format.lsRbTimeout : Format.Statement .lsRbTimeout := rfl
theorem Format.lsLinkfail : Format.Statement .lsLinkfail := rfl
theorem Format.reset (r : Role) : Format.Statement (.reset r) := rfl
theorem Format.tokReq (r : Role) : Format.Statement (.tokReq r) := rfl
theorem Format.tokAck (r : Role) : Format.Statement (.tokAck r) := rfl
theorem Format.term (r : Role) : Format.Statement (.term r) := rfl

end Sys2Proof.Laws
end

