-- ==== Sys2Proof/Tests/Slice0.lean ====
section
/-! SUPPORT. Tests: well-formedness, decoding of words written out from 30_encoding.md, single steps from the vectors of
95_test_vectors.md (`V<n>`), and a witness for the hypotheses of every statement. -/

namespace Sys2Proof.Tests

open Sys2Proof.Machine

/-! ## Helpers -/

/-- The state a step answers with, if it answers one. -/
def after (o : Host.Outcome State Fault Refusal) : Option State :=
  match o with
  | .next s => some s
  | .fault _ => none
  | .refused _ => none

/-- Reset with another device instance and something in `H2D`. -/
def onDev (d : DeviceInst) (h2d : List Byte) : State := { State.reset with dev := d, h2d := h2d }

/-- Reset with another host instance and something in `D2H`. -/
def onHost (h : HostInst) (d2h : List Byte) : State := { State.reset with host := h, d2h := d2h }

/-- A device in phase `p`. -/
def devIn (p : DPhase) : DeviceInst := { DeviceInst.reset with phase := p, hs := hsOfDPhase p }

/-- A host in phase `p`. -/
def hostIn (p : HPhase) : HostInst := { HostInst.reset with phase := p }

/-! ## Well-formedness: an ill-formed term for each check, refused -/

theorem test_wf_skip_is_not_the_token : Instr.wf (.hsDSkip 0x4F) = false := by decide
theorem test_wf_nak_is_not_the_token : Instr.wf (.hsHNak 0x54) = false := by decide
theorem test_wf_rx_data_is_not_term : Instr.wf (.dsRxData 0x00) = false := by decide
theorem test_wf_rx_over_is_not_term : Instr.wf (.dsRxOver 0x00) = false := by decide
theorem test_wf_rb_data_is_not_term : Instr.wf (.lsRbData 0x00) = false := by decide
theorem test_wf_rb_over_is_not_term : Instr.wf (.lsRbOver 0x00) = false := by decide
theorem test_wf_encode_length : Instr.wf (.fcEncode (List.replicate 2048 0x41)) = false := by decide +kernel
theorem test_wf_encode_longest : Instr.wf (.fcEncode (List.replicate 2047 0x41)) = true := by decide +kernel

/-! ## Decoding of words written out from R101, R106 to R110 -/

theorem test_decode_cec :
    decode (.cec .device 0b0000000000) = .ok (.crcClr .device) ∧
    decode (.cec .host 0b0101000001) = .ok (.crcByte .host 0x41) ∧
    decode (.cec .device 0b1011111111) = .ok (.crcBit .device) ∧
    decode (.cec .device 0b1100000000) = .error .cecReserved := by decide

theorem test_decode_nvc :
    decode (.nvc 0b00_000000000011_00000000) = .ok (.nvRead 3) ∧
    decode (.nvc 0b01_000000000111_01000010) = .ok (.nvWrite 7 0x42) ∧
    decode (.nvc 0b10_000000000111_00000000) = .ok (.nvErase 7) ∧
    decode (.nvc 0b11_000000000010_10000111) = .ok (.nvErwr 2 0x87) := by decide

theorem test_decode_table_words :
    decodeTableWord 16 0x141 = some (.crcByte .device 0x41) ∧ decodeTableWord 16 0x000 = some (.crcClr .device) ∧
    decodeTableWord 16 0x200 = some (.crcBit .device) ∧ decodeTableWord 24 0x200700 = some (.nvErase 7) ∧
    decodeTableWord 16 0x400 = none ∧ decodeTableWord 24 0x400000 = none ∧ decodeTableWord 8 0x41 = none := by decide

theorem test_decode_units :
    decode (.fic 0b01_000000000010_00000001) = .ok (.fiApply 1 2 0x01) ∧
    decode (.payload [0x41, 0x42]) = .ok (.fcEncode [0x41, 0x42]) ∧
    decode (.classify 0x87) = .ok (.fcClassify 0x87) ∧
    decode (.window [0x41, 0x42, 0x87]) = .ok (.ivVerify [0x41, 0x42, 0x87]) ∧
    decode (.reset .host) = .ok (.reset .host) := by decide

theorem test_decode_wire_values :
    decode (.w8 .device 0b01001111) = .ok (.tokReq .device) ∧ decode (.w8 .host 0b01010100) = .ok (.tokAck .host) ∧
    decode (.w8 .device 0b00000000) = .ok (.term .device) ∧
    decode (.w8 .host 0b01000001) = .error (.plainByte .host 0x41) := by decide

theorem test_decode_device_handshake :
    decode (.dev { phase := 0b000, head := some 0x4F, ea := 2048, n := 0, size := 0, ri := 0 }) = .ok .hsDArm ∧
    decode (.dev { phase := 0b001, head := some 0x42, ea := 2048, n := 0, size := 0, ri := 0 }) = .ok (.hsDSkip 0x42) ∧
    decode (.dev { phase := 0b001, head := some 0x4F, ea := 2048, n := 0, size := 0, ri := 0 }) = .ok .hsDReq ∧
    decode (.dev { phase := 0b010, head := none, ea := 2048, n := 0, size := 0, ri := 0 }) = .ok .hsDAck ∧
    decode (.dev { phase := 0b001, head := none, ea := 2048, n := 0, size := 0, ri := 0 }) = .error .noneEnabled := by
  decide

theorem test_decode_device_receive :
    decode (.dev { phase := 0b011, head := some 0x41, ea := 2048, n := 2047, size := 0, ri := 0 }) = .ok (.dsRxData 0x41) ∧
    decode (.dev { phase := 0b011, head := some 0x41, ea := 2048, n := 2048, size := 0, ri := 0 }) = .ok (.dsRxOver 0x41) ∧
    decode (.dev { phase := 0b011, head := some 0x00, ea := 2048, n := 2048, size := 0, ri := 0 }) = .ok .dsRxTerm ∧
    decode (.dev { phase := 0b011, head := some 0x00, ea := 2048, n := 1, size := 0, ri := 0 }) = .ok .dsRxTerm ∧
    decode (.dev { phase := 0b011, head := some 0x00, ea := 2048, n := 0, size := 0, ri := 0 }) = .ok .dsRxEmpty := by
  decide

theorem test_decode_device_rest :
    decode (.dev { phase := 0b000, head := none, ea := 2047, n := 0, size := 0, ri := 0 }) = .ok .dsErase ∧
    decode (.dev { phase := 0b100, head := none, ea := 2048, n := 3, size := 2, ri := 0 }) = .ok .dsVerify ∧
    decode (.dev { phase := 0b101, head := none, ea := 2048, n := 3, size := 2, ri := 0 }) = .ok .dsCommit ∧
    decode (.dev { phase := 0b110, head := none, ea := 2048, n := 3, size := 2, ri := 2 }) = .ok .dsRbByte ∧
    decode (.dev { phase := 0b110, head := none, ea := 2048, n := 3, size := 2, ri := 3 }) = .ok .dsRbTerm ∧
    decode (.dev { phase := 0b111, head := some 0x4F, ea := 2048, n := 3, size := 2, ri := 0 }) = .error .noneEnabled := by
  decide

theorem test_decode_host_handshake :
    decode (.host { phase := 0b010, head := none, rn := 0, event := none }) = .ok .hsHReq ∧
    decode (.host { phase := 0b011, head := some 0x54, rn := 0, event := none }) = .ok .hsHAck ∧
    decode (.host { phase := 0b011, head := some 0x00, rn := 0, event := none }) = .ok (.hsHNak 0x00) ∧
    decode (.host { phase := 0b011, head := none, rn := 0, event := some .timeout }) = .ok .hsHTimeout ∧
    decode (.host { phase := 0b011, head := some 0x54, rn := 0, event := some .timeout }) = .error .noneEnabled := by
  decide

theorem test_decode_host_start_send :
    decode (.host { phase := 0b111, head := none, rn := 0, event := some (.start [0x41] 0b10_000000000111_00110000) }) =
      .ok (.lsStart [0x41] 2 7 0x30) ∧
    decode (.host { phase := 0b001, head := none, rn := 0, event := none }) = .ok .lsEncode ∧
    decode (.host { phase := 0b100, head := none, rn := 0, event := none }) = .ok .lsTx ∧
    decode (.host { phase := 0b100, head := none, rn := 0, event := some .linkfail }) = .ok .lsLinkfail ∧
    decode (.host { phase := 0b110, head := none, rn := 0, event := some .linkfail }) = .error .noneEnabled := by decide

theorem test_decode_host_readback :
    decode (.host { phase := 0b101, head := some 0x41, rn := 2047, event := none }) = .ok (.lsRbData 0x41) ∧
    decode (.host { phase := 0b101, head := some 0x41, rn := 2048, event := none }) = .ok (.lsRbOver 0x41) ∧
    decode (.host { phase := 0b101, head := some 0x00, rn := 2048, event := none }) = .ok .lsRbTerm ∧
    decode (.host { phase := 0b101, head := none, rn := 0, event := some .timeout }) = .ok .lsRbTimeout := by decide

/-! ## Single steps, from the vectors -/

-- V1
theorem test_crc_clr :
    (after (exec (.crcClr .device) (onDev { DeviceInst.reset with acc := 0x5E } []))).map (·.dev.acc) = some 0x00 := by
  decide

-- V3, V5, V7 and the example of R132
theorem test_crc_bit :
    [0x80, 0xFF, 0x81, 0x82, 0x7F].map crcBit = [0x07, 0xF9, 0x05, 0x03, 0xFE] := by decide

-- V9
theorem test_crc_byte :
    (after (exec (.crcByte .host 0x42) (onHost { HostInst.reset with acc := 0xC0 } []))).map (·.host.acc) = some 0x87 := by
  decide

-- V13: "123456789", "hello", [41,00,42], [01,07], [01,07,55]
theorem test_checksum :
    checksum [0x31, 0x32, 0x33, 0x34, 0x35, 0x36, 0x37, 0x38, 0x39] = 0xF4 ∧
    checksum [0x68, 0x65, 0x6C, 0x6C, 0x6F] = 0x92 ∧ checksum [0x41, 0x00, 0x42] = 0x24 ∧
    checksum [0x01, 0x07] = 0x00 ∧ checksum [0x01, 0x07, 0x55] = 0xAC := by decide +kernel

-- V24
theorem test_nv_read :
    (after (exec (.nvRead 3) (onDev { DeviceInst.reset with nv := [(3, erasedCell)] } []))).map (·.reply) =
      some (.byte 0xFF) := by decide

-- V25
theorem test_nv_read_refused :
    (after (exec (.nvRead 2048) State.reset)).map (fun t => (t.reply, t.dev.nvfault, t.dev.nv)) =
      some (.refused, true, []) := by decide

-- V19
theorem test_nv_write :
    (after (exec (.nvWrite 7 0x42) (onDev { DeviceInst.reset with nv := [(7, erasedCell)] } []))).map (·.dev.nv) =
      some [(7, { held := some 0x42, tag := .programmed })] := by decide

-- V26
theorem test_nv_write_refused :
    (after (exec (.nvWrite 4095 0x11) State.reset)).map (fun t => (t.dev.nvfault, t.dev.nv)) = some (true, []) := by decide

-- V17
theorem test_nv_erase :
    (after (exec (.nvErase 7) (onDev { DeviceInst.reset with nv := [(7, programmedCell 0x42)] } []))).map (·.dev.nv) =
      some [(7, { held := some 0xFF, tag := .erased })] := by decide

-- V23: from a cell nothing has touched
theorem test_nv_erwr :
    (after (exec (.nvErwr 9 0xF0) State.reset)).map (·.dev.nv) =
      some [(9, { held := some 0xF0, tag := .programmed })] := by decide

-- V28
theorem test_fc_encode :
    (after (exec (.fcEncode [0x41, 0x42]) State.reset)).map (fun t => (bufTake t.host.frame 4, t.host.flen)) =
      some (some [0x41, 0x42, 0x87, 0x00], 4) := by decide +kernel

-- V29
theorem test_fc_encode_empty :
    (after (exec (.fcEncode []) State.reset)).map (fun t => (bufTake t.host.frame 2, t.host.flen)) =
      some (some [0x00, 0x00], 2) := by decide

-- V32
theorem test_fc_classify :
    [0x00, 0x87, 0x4F, 0x01].map (fun b => (after (exec (.fcClassify b) State.reset)).map (·.reply)) =
      [some (.frameClass .terminator), some (.frameClass .data), some (.frameClass .data), some (.frameClass .data)] := by
  decide

/-- A host with the frame of "AB" built. -/
def framed : HostInst := { HostInst.reset with frame := bufFrom 0 [0x41, 0x42, 0x87, 0x00], flen := 4 }

-- V33
theorem test_fi_apply_flip :
    (after (exec (.fiApply 1 2 0x01) (onHost framed []))).map (fun t => bufTake t.host.frame 4) =
      some (some [0x41, 0x42, 0x86, 0x00]) := by decide

-- V36; R268: no second failure on top of the first; R269: none once the frame is sent
theorem test_fi_apply_illegal :
    [(2, 4, 0x30), (2, 7, 0x30), (1, 1, 0x00), (3, 0, 0x01)].map
        (fun (c : BitVec 2 × Cnt × Byte) => (after (exec (.fiApply c.1 c.2.1 c.2.2) (onHost framed []))).map (·.host.hfault)) =
      [some 7, some 7, some 7, some 7] ∧
    (∀ h ∈ [{ framed with phase := .hFailed, hfault := 3 }, { framed with phase := .hDone, ti := 4 }],
      after (exec (.fiApply 3 0 0x01) (onHost h [])) = some (onHost h [])) := by decide

-- V38, V39
theorem test_iv_verify :
    [[0x41, 0x42, 0x87], [0x41, 0x42, 0x86]].map
        (fun w => (after (exec (.ivVerify w) State.reset)).map (fun t => (t.reply, t.dev.acc))) =
      [some (.verdict .ok, 0x00), some (.verdict .corrupt, 0x07)] := by decide +kernel

-- V42
theorem test_hs_d_arm :
    (after (exec .hsDArm (onDev { DeviceInst.reset with ea := 2048 } [0x4F]))).map
      (fun t => (t.dev.phase, t.dev.hs, t.h2d)) = some (.dAwait, .awaitPeer, [0x4F]) := by decide

-- V44, first skip
theorem test_hs_d_skip :
    (after (exec (.hsDSkip 0x42) (onDev (devIn .dAwait) [0x42, 0x24, 0x00, 0x4F]))) =
      some (onDev (devIn .dAwait) [0x24, 0x00, 0x4F]) := by decide

-- V45
theorem test_hs_d_req :
    (after (exec .hsDReq (onDev (devIn .dAwait) [0x4F]))).map (fun t => (t.dev.phase, t.dev.hs, t.h2d)) =
      some (.dReply, .awaitPeer, []) := by decide

-- V46
theorem test_hs_d_ack :
    (after (exec .hsDAck (onDev { devIn .dReply with n := 3, size := 2, vdone := true, vok := true, csum := 0x87 } []))).map
      (fun t => (t.d2h, t.dev.phase, t.dev.n, t.dev.vok, t.dev.csum)) = some ([0x54], .dRecv, 0, false, 0x87) := by decide

-- V47
theorem test_hs_h_req :
    (after (exec .hsHReq (onHost (hostIn .hReq) []))).map (fun t => (t.h2d, t.host.phase, t.host.hs)) =
      some ([0x4F], .hAwait, .awaitPeer) := by decide

-- V48
theorem test_hs_h_ack :
    (after (exec .hsHAck (onHost { hostIn .hAwait with ti := 5 } [0x54]))).map
      (fun t => (t.d2h, t.host.phase, t.host.hs, t.host.ti)) = some ([], .hSend, .synced, 0) := by decide

-- V43
theorem test_hs_h_nak :
    (after (exec (.hsHNak 0x00) (onHost (hostIn .hAwait) [0x00]))).map (fun t => (t.d2h, t.host.hfault, hstatus t)) =
      some ([], 4, 0x9F) := by decide

-- V49
theorem test_hs_h_timeout :
    (after (exec .hsHTimeout (onHost (hostIn .hAwait) []))).map (fun t => (t.host.hfault, t.host.hs, t.host.phase)) =
      some (3, .failed, .hFailed) := by decide

-- V50, the old byte being NV0(0)
theorem test_ds_erase :
    (after (exec .dsErase State.reset)).map (fun t => (t.dev.nv, t.dev.ea)) = some ([(0, erasedCell)], 1) := by decide

-- V51
theorem test_ds_rx_data :
    (after (exec (.dsRxData 0x41) (onDev { devIn .dRecv with nv := [(0, erasedCell)] } [0x41, 0x42]))).map
      (fun t => (t.h2d, nvCell t.dev.nv 0, tabGet t.dev.buf 0, t.dev.n)) =
      some ([0x42], programmedCell 0x41, some 0x41, 1) := by decide

-- V52
theorem test_ds_rx_term :
    (after (exec .dsRxTerm (onDev { devIn .dRecv with n := 3 } [0x00]))).map (fun t => (t.h2d, t.dev.size, t.dev.phase)) =
      some ([], 2, .dVerify) := by decide

-- V54 at CAP = 2048
theorem test_ds_rx_over :
    (after (exec (.dsRxOver 0x45) (onDev { devIn .dRecv with n := 2048 } [0x45, 0x00]))).map
      (fun t => (t.h2d, t.dev.dfault, t.dev.phase, t.dev.n, dstatus t)) =
      some ([0x00], 1, .dFault, 2048, 0x97) := by decide

-- V55
theorem test_ds_rx_empty :
    (after (exec .dsRxEmpty (onDev (devIn .dRecv) [0x00, 0x00]))).map (fun t => (t.h2d, t.dev.dfault, t.dev.phase)) =
      some ([0x00], 2, .dFault) := by decide

/-- A device that has received the window `41 42 b`. -/
def received3 (p : DPhase) (b : Byte) : DeviceInst :=
  { devIn p with n := 3, size := 2, buf := bufFrom 0 [0x41, 0x42, b], nv := [(2, programmedCell b)] }

-- V56
theorem test_ds_verify_ok :
    (after (exec .dsVerify (onDev (received3 .dVerify 0x87) []))).map
      (fun t => (t.dev.acc, t.dev.vok, t.dev.vdone, t.diag, t.dev.phase)) =
      some (0x00, true, true, [.vstart, .vpass], .dCommit) := by decide +kernel

-- V57
theorem test_ds_verify_corrupt :
    (after (exec .dsVerify (onDev (received3 .dVerify 0x86) []))).map
      (fun t => (t.dev.acc, t.dev.vok, t.dev.vdone, t.diag, t.dev.phase)) =
      some (0x07, false, true, [.vstart, .vfail], .dCommit) := by decide +kernel

-- V58
theorem test_ds_commit :
    (after (exec .dsCommit (onDev (received3 .dCommit 0x86) []))).map
      (fun t => (t.dev.csum, t.dev.nv, tabGet t.dev.buf 2, t.dev.phase)) =
      some (0x87, [(2, { held := some 0x87, tag := .programmed })], some 0x86, .dReadback) := by decide +kernel

-- V59
theorem test_ds_commit_one_byte :
    (after (exec .dsCommit (onDev { devIn .dCommit with n := 1, buf := [(0, 0x41)], nv := [(0, programmedCell 0x41)] } []))).map
      (fun t => (t.dev.csum, t.dev.nv)) = some (0x00, [(0, { held := some 0x00, tag := .programmed })]) := by decide

-- V60
theorem test_ds_rb_byte :
    (after (exec .dsRbByte (onDev { devIn .dReadback with size := 2, nv := [(0, programmedCell 0x41)] } []))).map
      (fun t => (t.d2h, t.dev.ri)) = some ([0x41], 1) := by decide

-- V61
theorem test_ds_rb_term :
    (after (exec .dsRbTerm (onDev { devIn .dReadback with size := 2, ri := 3, n := 3, ea := 2048 } []))).map
      (fun t => (t.d2h, t.dev.phase, t.dev.ea, t.dev.hs, t.dev.n)) = some ([0x00], .dErase, 0, .idle, 3) := by decide

-- V62
theorem test_ls_start :
    (after (exec (.lsStart [0x41, 0x42] 0 0 0x00) (onHost { hostIn .hFailed with hfault := 3, hs := .failed } []))).map
      (fun t => (t.host.phase, t.host.hfault, t.host.hs, t.plen)) = some (.hEncode, 0, .idle, 2) := by decide

-- V72
theorem test_ls_start_ignored :
    after (exec (.lsStart [0x58] 0 0 0x00) (onHost (hostIn .hSend) [])) = some (onHost (hostIn .hSend) []) := by decide

-- V34 through LS.ENCODE, the frame of "AB" at offset 1
theorem test_ls_encode :
    (after (exec .lsEncode
        (onHost { hostIn .hEncode with payload := [0x41, 0x42], fiMode := 2, fiOffset := 1, fiValue := 0x30 } []))).map
      (fun t => (bufTake t.host.frame 4, t.host.flen, t.host.phase)) =
      some (some [0x41, 0x30, 0x87, 0x00], 4, .hReq) := by decide +kernel

-- P8
theorem test_ls_encode_fi_config :
    (after (exec .lsEncode
        (onHost { hostIn .hEncode with payload := [0x41, 0x42], fiMode := 2, fiOffset := 7, fiValue := 0x30 } []))).map
      (fun t => (bufTake t.host.frame 4, t.host.hfault, t.host.phase, t.h2d)) =
      some (some [0x41, 0x42, 0x87, 0x00], 7, .hFailed, []) := by decide +kernel

-- V64
theorem test_ls_tx :
    (after (exec .lsTx (onHost { framed with phase := .hSend, ti := 3 } []))).map
      (fun t => (t.h2d, t.host.ti, t.host.phase)) = some ([0x00], 4, .hReadback) := by decide

-- V65, first step
theorem test_ls_rb_data :
    (after (exec (.lsRbData 0x41) (onHost (hostIn .hReadback) [0x41, 0x00]))).map
      (fun t => (t.d2h, t.host.rb, t.host.rn)) = some ([0x00], [(0, 0x41)], 1) := by decide

-- V65, second step
theorem test_ls_rb_term :
    (after (exec .lsRbTerm (onHost { hostIn .hReadback with rn := 1 } [0x00]))).map (fun t => (t.d2h, t.host.phase)) =
      some ([], .hDone) := by decide

-- V66 at CAP = 2048
theorem test_ls_rb_over :
    (after (exec (.lsRbOver 0x55) (onHost { hostIn .hReadback with rn := 2048 } [0x55]))).map
      (fun t => (t.d2h, t.host.hfault, t.host.phase, t.host.rn)) = some ([], 6, .hFailed, 2048) := by decide

-- V67
theorem test_ls_rb_timeout :
    (after (exec .lsRbTimeout (onHost { hostIn .hReadback with hs := .synced } []))).map
      (fun t => (t.host.hfault, hstatus t)) = some (5, 0x97) := by decide

-- V68
theorem test_ls_linkfail :
    (after (exec .lsLinkfail (onHost { hostIn .hSend with ti := 2 } []))).map
      (fun t => (t.host.hfault, t.host.phase, t.host.ti, t.h2d)) = some (5, .hFailed, 2, []) := by decide

-- V69
theorem test_reset_device :
    (after (exec (.reset .device)
        (onDev { devIn .dFault with dfault := 1, n := 4, nv := [(0, programmedCell 0x41)] } [0x00]))).map
      (fun t => (t.dev.phase, t.dev.dfault, nvCell t.dev.nv 0, t.h2d)) =
      some (.dErase, 0, { held := some 0x41, tag := .unknown }, [0x00]) := by decide

-- V70
theorem test_reset_host :
    (after (exec (.reset .host) (onHost { hostIn .hSend with ti := 2, payload := [0x41] } [0x54]))).map
      (fun t => (t.host, t.d2h)) = some (HostInst.reset, [0x54]) := by decide

-- R102, row one: the token in `D_AWAIT`
theorem test_tok_req :
    (after (exec (.tokReq .device) (onDev (devIn .dAwait) [0x4F]))).map (fun t => (t.dev.phase, t.h2d)) =
      some (.dReply, []) := by decide

-- R102: the token in `D_RECV` is data
theorem test_tok_req_is_data :
    (after (exec (.tokReq .device) (onDev { devIn .dRecv with nv := [(0, erasedCell)] } [0x4F]))).map (·.dev.n) =
      some 1 := by decide

-- R102: the reply in `H_AWAIT`
theorem test_tok_ack :
    (after (exec (.tokAck .host) (onHost (hostIn .hAwait) [0x54]))).map (·.host.phase) = some .hSend := by decide

-- R102: the terminator in `H_READBACK`, and with nothing received in `D_RECV`
theorem test_term :
    (after (exec (.term .host) (onHost (hostIn .hReadback) [0x00]))).map (·.host.phase) = some .hDone ∧
    (after (exec (.term .device) (onDev (devIn .dRecv) [0x00]))).map (·.dev.dfault) = some 2 := by decide

-- R102: a byte of data shown to a device that receives, and to one that awaits the token
theorem test_plain_byte :
    (after (makeMove (.bench (.w8 .device 0x41)) (onDev { devIn .dRecv with nv := [(0, erasedCell)] } [0x41]))).map
      (fun t => (t.dev.n, tabGet t.dev.buf 0, t.h2d)) = some (1, some 0x41, []) ∧
    after (makeMove (.bench (.w8 .device 0x42)) (onDev (devIn .dAwait) [0x42])) = some (onDev (devIn .dAwait) []) := by
  decide

-- R23: a read of an entry of `BUF` nothing has written stops
theorem test_verify_unwritten : exec .dsVerify (onDev { devIn .dVerify with n := 1 } []) = .fault .bufUnwritten := rfl


/-! ## Good states for the witnesses -/

/-- The cell at `a` of a mirror that holds `w` from address 0 on and is erased above. -/
def rowCell (w : List Byte) (a : Nat) : NvCell :=
  match w[a]? with
  | some b => programmedCell b
  | none => erasedCell

/-- A mirror that holds `w` from address 0 on and is erased above. -/
@[irreducible] def mirrorOf (w : List Byte) : NvMem := (List.range Config.CAP).map fun a => (a, rowCell w a)

theorem rising_mirrorOf (w : List Byte) : Rising (mirrorOf w) := by
  unfold mirrorOf
  exact List.Pairwise.map _ (fun _ _ h => h) List.pairwise_lt_range

theorem mem_mirrorOf {w : List Byte} {e : Nat × NvCell} :
    e ∈ mirrorOf w ↔ ∃ a, a < Config.CAP ∧ (a, rowCell w a) = e := by
  unfold mirrorOf
  simp only [List.mem_map, List.mem_range]

theorem rowCell_ne_untouched (w : List Byte) (a : Nat) : rowCell w a ≠ untouched := by
  unfold rowCell
  split <;> simp [programmedCell, erasedCell, untouched]

theorem wf_mirrorOf (w : List Byte) : NvMem.wf (mirrorOf w) := by
  refine ⟨rising_mirrorOf w, fun e he => ?_, fun e he => ?_⟩
  · obtain ⟨a, ha, rfl⟩ := mem_mirrorOf.mp he
    exact ha
  · obtain ⟨a, _, rfl⟩ := mem_mirrorOf.mp he
    exact rowCell_ne_untouched w a

theorem nvCell_mirrorOf (w : List Byte) {a : Nat} (h : a < Config.CAP) : nvCell (mirrorOf w) a = rowCell w a := by
  have hm : (a, rowCell w a) ∈ mirrorOf w := mem_mirrorOf.mpr ⟨a, h, rfl⟩
  rw [nvCell, tabGet_of_mem (rising_mirrorOf w) hm]
  rfl

/-- A device that has received the window `w` and no terminator yet. -/
def recvDev (w : List Byte) : DeviceInst :=
  { devIn .dRecv with ea := capCnt, n := BitVec.ofNat 12 w.length, nv := mirrorOf w, buf := bufFrom 0 w }

/-- A device in phase `p` at the end of its erase pass. -/
def erasedDev (p : DPhase) : DeviceInst := { devIn p with ea := capCnt, nv := mirrorOf [] }

theorem erasedFrom_mirrorOf (w : List Byte) : erasedFrom (mirrorOf w) w.length Config.CAP := by
  intro a h1 h2
  rw [nvCell_mirrorOf w h2, rowCell, List.getElem?_eq_none h1]

theorem good_recvDev {w : List Byte} (h : w.length ≤ Config.CAP) (h0 : ∀ b ∈ w, b ≠ Config.TERM) :
    DeviceGood (recvDev w) := by
  have hn : (BitVec.ofNat 12 w.length).toNat = w.length := by
    simp only [Config.CAP] at h
    simp
    omega
  refine ⟨wf_mirrorOf w, Buf.wf_bufFrom (by omega), Nat.le_refl 2048, ?_, Nat.zero_lt_succ 2047, rfl, ?_,
    Nat.zero_le 2, ?_, ?_, ?_, ?_, ?_, ?_,
    ?_, ?_⟩ <;> simp only [recvDev, devIn, hn]
  · exact h
  · exact ⟨fun hp => (nomatch hp), fun hf => absurd rfl hf⟩
  · simp [windowClosed]
  · simp
  · simp
  · simp
  · exact fun _ => erasedFrom_mirrorOf w
  · intro _ i hi
    rw [tabGet_bufFrom]
    simp [List.getElem?_eq_getElem hi]
  · intro _ _ i hi
    refine ⟨w[i], ?_, h0 _ (List.getElem_mem hi), ?_⟩
    · rw [tabGet_bufFrom]
      simp [List.getElem?_eq_getElem hi]
    · rw [nvCell_mirrorOf w (by omega), rowCell, List.getElem?_eq_getElem hi]
  · simp

theorem good_erasedDev {p : DPhase} (h : p = .dErase ∨ p = .dAwait ∨ p = .dReply) : DeviceGood (erasedDev p) := by
  have he : erasedFrom (mirrorOf []) 0 Config.CAP := erasedFrom_mirrorOf []
  have hb : Buf.wf Config.CAP [] := ⟨List.Pairwise.nil, fun e he => absurd he List.not_mem_nil⟩
  rcases h with rfl | rfl | rfl <;>
    refine ⟨wf_mirrorOf [], hb, by decide, by decide, by decide, rfl,
      ⟨fun hp => (nomatch hp), fun hf => absurd rfl hf⟩, by decide, ?_, ?_, ?_, ?_, ?_, ?_, ?_, ?_⟩ <;> simp [erasedDev, devIn, windowClosed, windowOpen] <;> exact he

theorem good_hostIdle : HostGood HostInst.reset := by
  refine ⟨⟨?_, ?_⟩, ⟨?_, ?_⟩, ?_, ?_, ?_, ?_, ?_, ?_, ?_, ?_, ?_, ?_, ?_, ?_⟩ <;>
    simp [HostInst.reset, hostHsGood, frameReady]

/-- The device armed, the host idle, both channels empty. -/
def armed : State := { State.reset with dev := erasedDev .dAwait }

theorem good_armed : Good armed := ⟨good_erasedDev (.inr (.inl rfl)), good_hostIdle⟩

/-- A session with the device receiving, `w` received so far and byte `b` to come. -/
def receiving (w : List Byte) (b : Byte) : State := { State.reset with dev := recvDev w, h2d := [b] }

theorem good_receiving {w : List Byte} (b : Byte) (h : w.length ≤ Config.CAP) (h0 : ∀ x ∈ w, x ≠ Config.TERM) :
    Good (receiving w b) := ⟨good_recvDev h h0, good_hostIdle⟩

/-- `k` bytes `41`. -/
def many (k : Nat) : List Byte := List.replicate k 0x41

theorem length_many (k : Nat) : (many k).length = k := List.length_replicate

theorem many_ne_term (k : Nat) : ∀ x ∈ many k, x ≠ Config.TERM := by
  intro x hx
  rw [List.eq_of_mem_replicate hx]
  decide

/-! ## Witnesses: the hypotheses of each statement met together -/

theorem witness_ShiftTableLinearInjective : crcShift8 0xFD = crcShift8 0xFD := rfl
theorem witness_CrcBitStep :
    (accOf .device (onDev { DeviceInst.reset with acc := 0x80 } [])).getLsbD 7 = true ∧
      (accOf .host State.reset).getLsbD 7 = false := by decide
theorem witness_ChecksumLinear : ([0x01, 0x07] : List Byte).length = ([0x41, 0x42] : List Byte).length := rfl
theorem witness_OneCorruptedByteIsDetected :
    (0x42 : Byte) ≠ 0x43 ∧ verdictOf (checksum ([0x41] ++ 0x42 :: [0x87])) = .ok := by decide +kernel
theorem witness_NvReadsAndRefusals : (2047 : Cnt).toNat < Config.CAP ∧ Config.CAP ≤ (2048 : Cnt).toNat := by decide
theorem witness_NvEraseResetsCell : (0 : Cnt).toNat < Config.CAP ∧ (2047 : Cnt).toNat < Config.CAP := by decide
theorem witness_FcEncodeBuildsFrame : (many 2047).length ≤ Config.MAXPAY ∧ ([] : List Byte).length ≤ Config.MAXPAY := by
  rw [length_many]
  decide
theorem witness_FiApplyChangesOneByte :
    (3 : Cnt).toNat < framed.flen.toNat ∧ (0x55 : Byte) ≠ 0x00 ∧ tabGet framed.frame (3 : Cnt).toNat = some 0x00 := by
  decide
theorem witness_FiApplyIllegalRaisesFiConfig :
    framed.flen.toNat ≤ (4 : Cnt).toNat ∧ ((3 : BitVec 2) = 3) ∧ (0x00 : Byte) = 0x00 ∧ framed.phase ≠ .hFailed ∧
      framed.ti = 0 ∧ (hostIn .hFailed).phase = .hFailed ∧ { framed with phase := .hDone, ti := 4 }.ti ≠ 0 := by decide

theorem witness_DeviceArms :
    (erasedDev .dErase).phase = .dErase ∧ (erasedDev .dErase).ea.toNat = Config.CAP ∧ DeviceGood (erasedDev .dErase) :=
  ⟨rfl, rfl, good_erasedDev (.inl rfl)⟩
theorem witness_DeviceSkipsOtherBytes :
    (onDev (devIn .dAwait) [0x54]).dev.phase = .dAwait ∧ (onDev (devIn .dAwait) [0x54]).h2d = 0x54 :: [] ∧
      (0x54 : Byte) ≠ 0x4F := by decide
theorem witness_DeviceTakesRequest :
    (onDev (devIn .dAwait) [0x4F]).dev.phase = .dAwait ∧ (onDev (devIn .dAwait) [0x4F]).h2d = 0x4F :: [] := by decide
theorem witness_DeviceAcknowledges : (onDev (devIn .dReply) []).dev.phase = .dReply := rfl
theorem witness_HostRequests : (onHost (hostIn .hReq) []).host.phase = .hReq := rfl
theorem witness_HostTakesReply :
    (onHost (hostIn .hAwait) [0x54]).host.phase = .hAwait ∧ (onHost (hostIn .hAwait) [0x54]).d2h = 0x54 :: [] := by decide
theorem witness_HandshakeFailures_mismatch :
    (onHost (hostIn .hAwait) [0x00]).host.phase = .hAwait ∧ (onHost (hostIn .hAwait) [0x00]).d2h = 0x00 :: [] ∧
      (0x00 : Byte) ≠ 0x54 := by decide
theorem witness_HandshakeFailures_timeout :
    (onHost (hostIn .hAwait) []).host.phase = .hAwait ∧ (onHost (hostIn .hAwait) []).d2h = [] := by decide

theorem witness_DeviceErasesNextCell_first :
    State.reset.dev.phase = .dErase ∧ State.reset.dev.ea.toNat < Config.CAP := by decide
theorem witness_DeviceErasesNextCell_last :
    (onDev { DeviceInst.reset with ea := 2047 } []).dev.phase = .dErase ∧
      (onDev { DeviceInst.reset with ea := 2047 } []).dev.ea.toNat < Config.CAP := by decide
theorem witness_DeviceStoresByte_first :
    (receiving [] 0x41).dev.phase = .dRecv ∧ (receiving [] 0x41).h2d = 0x41 :: [] ∧ (0x41 : Byte) ≠ 0x00 ∧
      (receiving [] 0x41).dev.n.toNat < Config.CAP ∧ DeviceGood (receiving [] 0x41).dev :=
  ⟨rfl, rfl, by decide, by decide, good_recvDev (by simp) (by simp)⟩
theorem witness_DeviceStoresByte_last :
    (receiving (many 2047) 0x41).dev.phase = .dRecv ∧ (receiving (many 2047) 0x41).dev.n.toNat < Config.CAP ∧
      DeviceGood (receiving (many 2047) 0x41).dev := by
  refine ⟨rfl, ?_, good_recvDev (by rw [length_many]; decide) (many_ne_term _)⟩
  show (BitVec.ofNat 12 (many 2047).length).toNat < _
  rw [length_many]
  decide
theorem witness_DeviceClosesWindow :
    ∀ n ∈ [(1 : Cnt), 2048], (onDev { devIn .dRecv with n := n } [0x00]).dev.phase = .dRecv ∧ 1 ≤ n.toNat ∧
      n.toNat ≤ Config.CAP := by decide
theorem witness_DeviceFaultEntry_over :
    (onDev { devIn .dRecv with n := 2048 } [0x41]).dev.phase = .dRecv ∧ (0x41 : Byte) ≠ 0x00 ∧
      (onDev { devIn .dRecv with n := 2048 } [0x41]).dev.n.toNat = Config.CAP := by decide
theorem witness_DeviceFaultEntry_empty :
    (onDev (devIn .dRecv) [0x00]).dev.phase = .dRecv ∧ (onDev (devIn .dRecv) [0x00]).h2d = 0x00 :: [] ∧
      (onDev (devIn .dRecv) [0x00]).dev.n.toNat = 0 := by decide
theorem witness_DeviceVerifies :
    (received3 .dVerify 0x87).phase = .dVerify ∧
      bufTake (received3 .dVerify 0x87).buf (received3 .dVerify 0x87).n.toNat = some [0x41, 0x42, 0x87] := by decide
theorem witness_DeviceCommits_shortest :
    (devIn .dCommit).phase = .dCommit ∧ bufTake (devIn .dCommit).buf (devIn .dCommit).size.toNat = some [] ∧
      (devIn .dCommit).size.toNat < Config.CAP := by decide
theorem witness_DeviceCommits_longest :
    bufTake (bufFrom 0 (many 2048)) (2047 : Cnt).toNat = some ((many 2048).take 2047) ∧ (2047 : Cnt).toNat < Config.CAP :=
  ⟨bufTake_bufFrom _ (by rw [length_many]; decide), by decide⟩
theorem witness_DeviceReadsBack :
    (devIn .dReadback).phase = .dReadback ∧ (2047 : Cnt).toNat ≤ (2047 : Cnt).toNat ∧ (2047 : Cnt).toNat < Config.CAP := by
  decide
theorem witness_DeviceRearms :
    (received3 .dReadback 0x87).phase = .dReadback ∧ (3 : Cnt).toNat = (received3 .dReadback 0x87).size.toNat + 1 := by decide

theorem witness_HostStartsAttempt :
    (∀ p ∈ [HPhase.hIdle, .hDone, .hFailed], (hostIn p).phase = .hIdle ∨ (hostIn p).phase = .hDone ∨
      (hostIn p).phase = .hFailed) ∧
    (hostIn .hSend).phase ≠ .hIdle ∧ (hostIn .hSend).phase ≠ .hDone ∧ (hostIn .hSend).phase ≠ .hFailed := by decide
theorem witness_HostEncodes :
    (hostIn .hEncode).phase = .hEncode ∧ (many 2047).length < Config.CAP ∧
      (2048 : Cnt).toNat < (many 2047).length + 2 ∧ (0x55 : Byte) ≠ 0x00 := by
  rw [length_many]
  decide
theorem witness_HostEncodeFailures :
    (hostIn .hEncode).phase = .hEncode ∧ Config.CAP ≤ (many 2048).length ∧ (many 2047).length < Config.CAP ∧
      (many 2047).length + 2 ≤ (2049 : Cnt).toNat := by
  rw [length_many, length_many]
  decide
theorem witness_HostTransmitsByte :
    { framed with phase := .hSend, ti := 3 }.phase = .hSend ∧ tabGet framed.frame (3 : Cnt).toNat = some 0x00 ∧
      tabGet framed.frame (0 : Cnt).toNat = some 0x41 := by decide
theorem witness_HostCollectsReadback :
    (hostIn .hReadback).phase = .hReadback ∧ (onHost (hostIn .hReadback) [0x41, 0x00]).d2h = 0x41 :: [0x00] ∧
      (0x41 : Byte) ≠ 0x00 ∧ (2047 : Cnt).toNat < Config.CAP ∧ (0 : Cnt).toNat < Config.CAP := by decide
theorem witness_LinkFailures :
    (hostIn .hReadback).phase = .hReadback ∧ (2048 : Cnt).toNat = Config.CAP ∧ (onHost (hostIn .hReadback) []).d2h = [] ∧
      (hostIn .hReq).phase = .hReq ∧ (hostIn .hAwait).phase = .hAwait ∧ (hostIn .hSend).phase = .hSend := by decide

theorem witness_ResetKeepsNvValues : NvMem.wf (mirrorOf [0x41, 0x42]) := wf_mirrorOf _
theorem witness_WireValuesDecodedByPhase_generic :
    decode (.w8 .device 0x4F) = .ok (.tokReq .device) ∧ takes .device 0x4F (receiving [] 0x4F) = true ∧
      decode (.dev (devWord (receiving [] 0x4F))) = .ok (.dsRxData 0x4F) := by decide
theorem witness_WireValuesDecodedByPhase_closing :
    (onDev { devIn .dRecv with n := 1 } [0x00]).dev.phase = .dRecv ∧ 1 ≤ (1 : Cnt).toNat ∧
      (onHost (hostIn .hReadback) [0x00]).d2h = 0x00 :: [] := by decide
theorem witness_WireValuesDecodedByPhase_idle :
    State.reset.dev.phase ≠ .dAwait ∧ State.reset.dev.phase ≠ .dRecv ∧ State.reset.host.phase ≠ .hAwait ∧
      State.reset.host.phase ≠ .hReadback := by decide
theorem witness_DecodeEncodeAgree :
    Instr.wf (.hsDSkip 0x42) = true ∧ decode (.w8 .host 0x54) = .ok (.tokAck .host) := by decide

theorem witness_WireValuesDecodedByPhase_data :
    takes .device 0x41 (receiving [] 0x41) = true ∧ takes .device 0x41 State.reset = false ∧
      takes .host 0x55 (onHost { hostIn .hReadback with rn := 2048 } [0x55]) = true := by decide

/-- A bench command word placed where the next step fetches. -/
def benched : State := { State.reset with agenda := [.bench (.cec .device 0x141)] }

theorem witness_StepRunsDecodedOperation :
    fetched (nextMove benched) (beginMove benched) = some (.cec .device 0x141) ∧
      decode (.cec .device 0x141) = .ok (.crcByte .device 0x41) ∧
      barred (nextMove benched) (.crcByte .device 0x41) (beginMove benched) = false := by decide
theorem witness_StepRunsDecodedOperation_barred :
    barred (.bench (.nvc 0x200700)) (.nvErase 7) (onDev (devIn .dRecv) []) = true ∧
      decode (.nvc 0x200700) = .ok (.nvErase 7) := by decide
theorem witness_StepRunsDecodedOperation_agenda :
    benched.agenda = .bench (.cec .device 0x141) :: [] ∧ State.reset.agenda = [] := by decide
theorem witness_StepRunsDecodedOperation_table :
    decodeTableWord 24 0x100742 = some (.nvWrite 7 0x42) ∧ portBars (.nvWrite 7 0x42) State.reset = false := by decide
theorem witness_NotEnabledChangesNothing :
    enabled .hsDAck State.reset = false ∧ fetched (.turn .host) State.reset = some (.host (hostWord none State.reset)) ∧
      decode (.host (hostWord none State.reset)) = .error .noneEnabled := by decide
theorem witness_RefusedAtThePort :
    (devIn .dRecv).phase ≠ .dFault ∧ ((devIn .dRecv).phase = .dErase → (devIn .dRecv).ea ≠ 0) ∧
      (hostIn .hEncode).phase ≠ .hIdle ∧ (hostIn .hEncode).phase ≠ .hDone ∧ (hostIn .hEncode).phase ≠ .hFailed ∧
      Config.MAXPAY < (many 2048).length ∧ (many 2047).length ≤ Config.MAXPAY := by
  rw [length_many, length_many]
  decide
theorem witness_RefusedAtThePort_wide :
    decode (.raw 8 256) = .error .wordTooWide ∧ decode (.raw 16 1024) = .error .wordTooWide ∧
      decode (.raw 24 4194304) = .error .wordTooWide := by decide

/-- The armed system with a request on its way and a turn of the device to come. -/
def requested : State := { armed with h2d := [0x4F], agenda := [.turn .device] }

theorem good_requested : Good requested := ⟨good_armed.dev, good_armed.host⟩

theorem witness_StepKeepsGood : Good requested ∧ ∃ t, step requested = .next t := ⟨good_requested, _, rfl⟩
theorem witness_OrdinaryMovesNeverStop : Good armed ∧ isOrdinary (.event (.host (.start [0x41] 0))) = true :=
  ⟨good_armed, rfl⟩
theorem witness_EraseBeforeWrite_first :
    Good (receiving [] 0x41) ∧ enabled (.dsRxData 0x41) (receiving [] 0x41) = true :=
  ⟨good_receiving _ (by simp) (by simp), by decide⟩
theorem witness_EraseBeforeWrite_last : Good (receiving (many 2047) 0x41) :=
  good_receiving _ (by rw [length_many]; decide) (many_ne_term _)
theorem witness_FaultsAreLeftOnlyAsSaid_device :
    isOrdinary (.turn .device) = true ∧ (devIn .dFault).phase = .dFault ∧
      makeMove (.turn .device) (onDev (devIn .dFault) [0x4F]) = .next (onDev (devIn .dFault) [0x4F]) := ⟨rfl, rfl, rfl⟩
theorem witness_FaultsAreLeftOnlyAsSaid_host :
    isOrdinary (.event (.host .timeout)) = true ∧ (hostIn .hFailed).phase = .hFailed ∧
      makeMove (.event (.host .timeout)) (onHost (hostIn .hFailed) []) = .next (onHost (hostIn .hFailed) []) :=
  ⟨rfl, rfl, rfl⟩
theorem witness_FaultsAreLeftOnlyAsSaid_bench :
    exec (.nvErase 4095) (onDev (devIn .dFault) []) =
        .next { onDev { devIn .dFault with nvfault := true } [] with reply := .refused } ∧
      exec (.fiApply 3 0 0x01) (onHost (hostIn .hFailed) []) = .next (onHost (hostIn .hFailed) []) := ⟨rfl, rfl⟩
theorem witness_RolesShareOnlyTheChannels :
    isDeviceOp .hsDReq = true ∧ (∃ t, exec .hsDReq requested = .next t) ∧ isHostOp .hsHReq = true ∧
      (∃ t, exec .hsHReq (onHost (hostIn .hReq) []) = .next t) ∧ isHostReaction .lsLinkfail = true :=
  ⟨rfl, ⟨_, rfl⟩, rfl, ⟨_, rfl⟩, rfl⟩
theorem witness_HalfDuplexTurns :
    (∃ t, makeMove (.turn .device) requested = .next t) ∧ requested.dev.phase = .dAwait ∧
      ∃ t, makeMove (.turn .host) (onHost (hostIn .hReq) []) = .next t := ⟨⟨_, rfl⟩, rfl, _, rfl⟩

/-- A request taken while the host sends another: the two transitions of the witness for commuting. -/
def crossing : State := { requested with host := hostIn .hReq }

theorem witness_RolesCommute :
    isDeviceOp .hsDReq = true ∧ isHostOp .hsHReq = true ∧ enabled .hsDReq crossing = true ∧
      enabled .hsHReq crossing = true ∧ (∃ u, exec .hsDReq crossing = .next u) ∧ ∃ v, exec .hsHReq crossing = .next v :=
  ⟨rfl, rfl, by decide, by decide, ⟨_, rfl⟩, _, rfl⟩
theorem witness_ErasePassClearsEveryCell : State.reset.dev.phase = .dErase ∧ State.reset.dev.ea = 0 := by decide
theorem witness_HostSendsTheFrame :
    { framed with phase := .hSend }.phase = .hSend ∧ framed.ti = 0 ∧ 0 < framed.flen.toNat ∧
      bufTake framed.frame framed.flen.toNat = some [0x41, 0x42, 0x87, 0x00] := by decide
theorem witness_DeviceServesOneSession :
    DeviceGood (recvDev []) ∧ (recvDev []).phase = .dRecv ∧ (recvDev []).n = 0 ∧ ([0x41, 0x42, 0x87] : List Byte) ≠ [] ∧
      (0x00 : Byte) ∉ ([0x41, 0x42, 0x87] : List Byte) ∧ ([0x41, 0x42, 0x87] : List Byte).length ≤ Config.CAP ∧
      (onDev (recvDev []) [0x41, 0x42, 0x87, 0x00, 0x4F]).h2d = [0x41, 0x42, 0x87] ++ [0x00] ++ [0x4F] :=
  ⟨good_recvDev (by simp) (by simp), rfl, by decide, by decide, by decide, by decide, rfl⟩
theorem witness_DeviceServesOneSession_longest :
    many 2048 ≠ [] ∧ (0x00 : Byte) ∉ many 2048 ∧ (many 2048).length ≤ Config.CAP := by
  have h := length_many 2048
  exact ⟨fun he => absurd (he ▸ h) (by decide), fun hm => many_ne_term _ _ hm rfl, Nat.le_of_eq h⟩
theorem witness_CleanSessionDelivers :
    Good armed ∧ armed.dev.phase = .dAwait ∧ armed.host.phase = .hIdle ∧ armed.h2d = [] ∧ armed.d2h = [] ∧
      ([0x41, 0x42] : List Byte).length ≤ Config.MAXPAY ∧
      (0x00 : Byte) ∉ ([0x41, 0x42] : List Byte) ++ [checksum [0x41, 0x42]] :=
  ⟨good_armed, rfl, rfl, rfl, rfl, by decide, by decide +kernel⟩

end Sys2Proof.Tests
end

/-! SUPPORT. What a move makes of the encoding it fetches, what an operation does where it is not enabled, and that the
sequencers' operations answer a next state where the state is good. -/

namespace Sys2Proof.Machine

/-! ## A move: fetch, decode, run -/

/-- A move whose encoding is an operation that the port does not bar is that operation (R7, log 10). -/
theorem makeMove_of_decode_ok {m : Move} {e : Encoding} {i : Instr} {s : State} (hf : fetched m s = some e)
    (hd : decode e = .ok i) (hb : barred m i s = false) : makeMove m s = exec i s := by
  simp [makeMove, hf, hd, hb]

/-- A move whose operation the port bars is refused (R319, log 10). -/
theorem makeMove_of_barred {m : Move} {e : Encoding} {i : Instr} {s : State} (hf : fetched m s = some e)
    (hd : decode e = .ok i) (hb : barred m i s = true) : makeMove m s = .refused .portInUse := by
  simp [makeMove, hf, hd, hb]

/-- A move whose encoding is no operation does what the reject says. -/
theorem makeMove_of_decode_error {m : Move} {e : Encoding} {r : Reject} {s : State} (hf : fetched m s = some e)
    (hd : decode e = .error r) : makeMove m s = rejected r s := by
  simp [makeMove, hf, hd]

/-- `decodeTableWord` is the decoder on a bare word, the name of the reject forgotten. -/
theorem decodeTableWord_eq_some {nbits w : Nat} {i : Instr} :
    decodeTableWord nbits w = some i ↔ decode (.raw nbits w) = .ok i := by
  unfold decodeTableWord
  cases decode (.raw nbits w) <;> simp

theorem nextMove_of_agenda {s : State} {m : Move} {rest : List Move} (h : s.agenda = m :: rest) :
    nextMove s = m := by
  simp [nextMove, h]

theorem beginMove_of_agenda {s : State} {m : Move} {rest : List Move} (h : s.agenda = m :: rest) :
    beginMove s = { s with agenda := rest, diag := [], reply := .none } := by
  simp [beginMove, h]

theorem nextMove_of_no_agenda {s : State} (h : s.agenda = []) : nextMove s = Config.schedule s.tick := by
  simp [nextMove, h]

theorem beginMove_of_no_agenda {s : State} (h : s.agenda = []) :
    beginMove s = { s with tick := s.tick + 1, diag := [], reply := .none } := by
  simp [beginMove, h]

@[simp] theorem nextMove_withFetchWord (s : State) (nbits w : Nat) :
    nextMove (s.withFetchWord nbits w) = .bench (.raw nbits w) := rfl

@[simp] theorem beginMove_withFetchWord (s : State) (nbits w : Nat) :
    beginMove (s.withFetchWord nbits w) = { s with diag := [], reply := .none } := rfl

/-! ## Operations that are not enabled -/

theorem whenEnabled_of_not_enabled {i : Instr} {s : State} {e : Host.Outcome State Fault Refusal}
    (h : enabled i s = false) : whenEnabled i s e = .next s := by
  simp [whenEnabled, h]

/-- When the DEVICE leaves a byte in `H2D` (R102). -/
theorem takes_device_eq_false {b : Byte} {s : State} :
    takes .device b s = false ↔
      devSees .dAwait b s = false ∧
        (devSees .dRecv b s = true → b ≠ Config.TERM ∧ Config.CAP < s.dev.n.toNat) := by
  simp [takes]

/-- When the HOST leaves a byte in `D2H` (R102). -/
theorem takes_host_eq_false {b : Byte} {s : State} :
    takes .host b s = false ↔
      hostSees .hAwait b s = false ∧
        (hostSees .hReadback b s = true → b ≠ Config.TERM ∧ Config.CAP < s.host.rn.toNat) := by
  simp [takes]

theorem deviceTakes_of_not_takes {b : Byte} {s : State} (h : takes .device b s = false) :
    deviceTakes b s = .next s := by
  obtain ⟨hawait, hrecv⟩ := takes_device_eq_false.mp h
  unfold deviceTakes
  cases s.dev.phase with
  | dAwait =>
    refine ite_eq_iff'.mpr ⟨fun hb => ?_, fun _ => ?_⟩
    · exact whenEnabled_of_not_enabled (by simp [enabled, ← hb, hawait])
    · exact whenEnabled_of_not_enabled (by simp [enabled, hawait])
  | dRecv =>
    cases hsees : devSees .dRecv b s with
    | false =>
      dsimp only
      split_ifs with hb hn hn
      · exact whenEnabled_of_not_enabled (by simp [enabled, ← hb, hsees])
      · exact whenEnabled_of_not_enabled (by simp [enabled, ← hb, hsees])
      · exact whenEnabled_of_not_enabled (by simp [enabled, hsees])
      · exact whenEnabled_of_not_enabled (by simp [enabled, hsees])
    | true =>
      obtain ⟨hb, hn⟩ := hrecv hsees
      dsimp only
      rw [if_neg hb, if_neg (by omega)]
      exact whenEnabled_of_not_enabled (by simp [enabled, hn.ne'])
  | _ => rfl

theorem hostTakes_of_not_takes {b : Byte} {s : State} (h : takes .host b s = false) :
    hostTakes b s = .next s := by
  obtain ⟨hawait, hreadback⟩ := takes_host_eq_false.mp h
  unfold hostTakes
  cases s.host.phase with
  | hAwait =>
    refine ite_eq_iff'.mpr ⟨fun hb => ?_, fun _ => ?_⟩
    · exact whenEnabled_of_not_enabled (by simp [enabled, ← hb, hawait])
    · exact whenEnabled_of_not_enabled (by simp [enabled, hawait])
  | hReadback =>
    cases hsees : hostSees .hReadback b s with
    | false =>
      dsimp only
      split_ifs with hb hn
      · exact whenEnabled_of_not_enabled (by simp [enabled, ← hb, hsees])
      · exact whenEnabled_of_not_enabled (by simp [enabled, hsees])
      · exact whenEnabled_of_not_enabled (by simp [enabled, hsees])
    | true =>
      obtain ⟨hb, hn⟩ := hreadback hsees
      dsimp only
      rw [if_neg hb, if_neg (by omega)]
      exact whenEnabled_of_not_enabled (by simp [enabled, hn.ne'])
  | _ => rfl

/-- A byte stays in the channel, and all else as it is, where its receiver does not take it (R102). -/
theorem roleTakes_of_not_takes {r : Role} {b : Byte} {s : State} (h : takes r b s = false) :
    roleTakes r b s = .next s :=
  match r with
  | .device => deviceTakes_of_not_takes h
  | .host => hostTakes_of_not_takes h

/-- An operation that is not enabled changes nothing (R11 blocked, R262, log 2). The unit operations but FI.APPLY, and
RESET, are always enabled. -/
theorem exec_of_not_enabled {i : Instr} {s : State} (h : enabled i s = false) : exec i s = .next s := by
  cases i with
  | crcClr | crcByte | crcBit | nvRead | nvWrite | nvErase | nvErwr | fcEncode | fcClassify | ivVerify | reset =>
    exact Bool.noConfusion h
  | tokReq | tokAck | term => exact roleTakes_of_not_takes h
  | _ => exact whenEnabled_of_not_enabled h

/-! ## What the sequencers' decoders read -/

/-- A decoder's answer that is an operation of the kind `p`, or that nothing is enabled. -/
inductive ReadsOp (p : Instr → Bool) : Except Reject Instr → Prop where
  | op {i : Instr} (h : p i = true) : ReadsOp p (.ok i)
  | blocked : ReadsOp p (.error .noneEnabled)

theorem decodeAwait_readsOp (head : Option Byte) : ReadsOp isDeviceOp (decodeAwait head) := by
  cases head with
  | none => exact .blocked
  | some b =>
    simp only [decodeAwait]
    split_ifs
    · exact .op rfl
    · exact .op rfl

theorem decodeRecv_readsOp (n : Cnt) (head : Option Byte) : ReadsOp isDeviceOp (decodeRecv n head) := by
  cases head with
  | none => exact .blocked
  | some b =>
    simp only [decodeRecv]
    split_ifs
    · exact .op rfl
    · exact .op rfl
    · exact .op rfl
    · exact .op rfl
    · exact .blocked

/-- A `SEQ` device word is read as a device transition or as blocked (R109). -/
theorem decodeDev_readsOp (w : DevWord) : ReadsOp isDeviceOp (decodeDev w) := by
  unfold decodeDev
  cases DPhase.ofCode w.phase with
  | dErase | dReadback =>
    dsimp only
    split_ifs
    · exact .op rfl
    · exact .op rfl
    · exact .blocked
  | dAwait => exact decodeAwait_readsOp w.head
  | dRecv => exact decodeRecv_readsOp w.n w.head
  | dReply | dVerify | dCommit => exact .op rfl
  | dFault => exact .blocked

/-- The host's `SEQ` word without an event is read as a host transition or as blocked (R110). -/
theorem decodeHostTurn_readsOp (ph : HPhase) (rn : Cnt) (head : Option Byte) :
    ReadsOp isHostOp (decodeHostTurn ph rn head) := by
  cases ph with
  | hIdle | hDone | hFailed => exact .blocked
  | hEncode | hReq | hSend => exact .op rfl
  | hAwait =>
    cases head with
    | none => exact .blocked
    | some b =>
      simp only [decodeHostTurn]
      split_ifs
      · exact .op rfl
      · exact .op rfl
  | hReadback =>
    cases head with
    | none => exact .blocked
    | some b =>
      simp only [decodeHostTurn]
      split_ifs
      · exact .op rfl
      · exact .op rfl
      · exact .op rfl
      · exact .blocked

/-- An event before the host is read as a reaction of the host or as lost (R262). -/
theorem decodeHostEvent_readsOp (ph : HPhase) (head : Option Byte) (e : HostEvent) :
    ReadsOp isHostReaction (decodeHostEvent ph head e) := by
  cases e with
  | start p fic | linkfail =>
    simp only [decodeHostEvent]
    split_ifs
    · exact .op rfl
    · exact .blocked
  | timeout =>
    simp only [decodeHostEvent]
    split_ifs
    · exact .op rfl
    · exact .op rfl
    · exact .blocked

/-! ## The sequencers' operations answer a next state -/

/-- A guarded operation answers a next state if its effect does wherever it is enabled. -/
theorem whenEnabled_answers {i : Instr} {s : State} {e : Host.Outcome State Fault Refusal}
    (h : enabled i s = true → ∃ t, e = .next t) : ∃ t, whenEnabled i s e = .next t := by
  cases he : enabled i s with
  | false => exact ⟨s, whenEnabled_of_not_enabled he⟩
  | true => rw [whenEnabled_of_enabled e he]; exact h he

/-- The window can be read while it is open: every byte below `N` has been written (R23, R63). -/
theorem exists_rxWindow {d : DeviceInst} (hg : DeviceGood d) (ho : windowOpen d.phase = true) :
    ∃ w, rxWindow d = some w :=
  Option.isSome_iff_exists.mp (bufTake_isSome.mpr (hg.bufWritten ho))

theorem windowOpen_of_windowClosed {p : DPhase} (h : windowClosed p = true) : windowOpen p = true := by
  cases p with
  | dVerify | dCommit | dReadback => rfl
  | _ => exact Bool.noConfusion h

/-- The payload can be read once the window is closed: `SIZE` is below `N` (R28). -/
theorem exists_rxPayload {d : DeviceInst} (hg : DeviceGood d) (hc : windowClosed d.phase = true) :
    ∃ q, rxPayload d = some q := by
  have hn := hg.sizeOfN hc
  exact Option.isSome_iff_exists.mp
    (bufTake_isSome.mpr fun i hi => hg.bufWritten (windowOpen_of_windowClosed hc) i (by omega))

/-- NV.READ inside the array returns the cell's byte (R152). -/
theorem nvReadByte_of_lt {a : Cnt} (d : DeviceInst) (ha : a.toNat < Config.CAP) :
    nvReadByte a d = some (nvVal d.nv a.toNat) := by
  simp [nvReadByte, nvRefuses, ha]

/-- The next byte to send has been written while the frame is being sent (R66). -/
theorem exists_txByte {h : HostInst} (hg : HostGood h) (hp : h.phase = .hSend) : ∃ b, txByte h = some b :=
  Option.isSome_iff_exists.mp (hg.frameWritten (by rw [hp]; rfl) _ (hg.sending hp))

/-- A legal injector that is on changes a byte of the frame (R177). -/
theorem offset_lt_of_fiLegal {mode : BitVec 2} {offset flen : Cnt} {value : Byte} (hm : mode ≠ fiOff)
    (h : fiLegal mode offset value flen = true) : offset.toNat < flen.toNat := by
  rw [fiLegal, if_neg hm] at h
  split_ifs at h
  · exact of_decide_eq_true (Bool.and_eq_true_iff.mp h).1
  · exact of_decide_eq_true h

/-- A legal injection into a frame that is written as far as its length finds its byte (R176, R177). -/
theorem exists_fiApplied {mode : BitVec 2} {offset flen : Cnt} {value : Byte} {frame : Buf}
    (hl : fiLegal mode offset value flen = true)
    (hw : ∀ k, k < flen.toNat → (tabGet frame k).isSome = true) : ∃ f, fiApplied mode offset value frame = some f := by
  unfold fiApplied
  split_ifs with hflip hreplace
  · have hon : mode ≠ fiOff := hflip ▸ by decide
    obtain ⟨old, hold⟩ := Option.isSome_iff_exists.mp (hw _ (offset_lt_of_fiLegal hon hl))
    exact ⟨_, by rw [hold, Option.map_some]⟩
  · exact ⟨_, rfl⟩
  · exact ⟨_, rfl⟩

/-- FC.ENCODE writes every entry of `FRAME` below `FLEN` (R171). -/
theorem encodeInto_frame_isSome (p : List Byte) (h : HostInst) {k : Nat} (hk : k < (encodeInto p h).flen.toNat) :
    (tabGet (encodeInto p h).frame k).isSome = true := by
  have hflen : (encodeInto p h).flen.toNat ≤ p.length + 2 := by
    rw [encodeInto_flen, BitVec.toNat_ofNat]
    exact Nat.mod_le _ _
  have hlength : (p ++ [checksum p] ++ [Config.TERM]).length = p.length + 2 := by simp
  rw [tabGet_encodeInto, List.getElem?_eq_getElem (by omega), Option.isSome_some]

theorem execDsVerify_answers {s : State} (hg : DeviceGood s.dev) : ∃ t, execDsVerify s = .next t :=
  whenEnabled_answers fun he => by
    have hp : s.dev.phase = .dVerify := by simpa [enabled] using he
    obtain ⟨w, hw⟩ := exists_rxWindow hg (by rw [hp]; rfl)
    rw [hw]
    exact ⟨_, rfl⟩

theorem execDsCommit_answers {s : State} (hg : DeviceGood s.dev) : ∃ t, execDsCommit s = .next t :=
  whenEnabled_answers fun he => by
    have hp : s.dev.phase = .dCommit := by simpa [enabled] using he
    obtain ⟨q, hq⟩ := exists_rxPayload hg (by rw [hp]; rfl)
    rw [hq]
    exact ⟨_, rfl⟩

theorem execDsRbByte_answers {s : State} (hg : DeviceGood s.dev) : ∃ t, execDsRbByte s = .next t :=
  whenEnabled_answers fun he => by
    obtain ⟨-, hri⟩ : s.dev.phase = .dReadback ∧ s.dev.ri.toNat ≤ s.dev.size.toNat := by simpa [enabled] using he
    rw [nvReadByte_of_lt s.dev (hri.trans_lt hg.sizeRange)]
    exact ⟨_, rfl⟩

/-- LS.ENCODE reads only what it has just written, so it needs nothing of the state. -/
theorem execLsEncode_answers (s : State) : ∃ t, execLsEncode s = .next t :=
  whenEnabled_answers fun _ => by
    dsimp only
    split_ifs with hlen hoff hlegal
    · exact ⟨_, rfl⟩
    · exact ⟨_, rfl⟩
    · obtain ⟨f, hf⟩ := exists_fiApplied hlegal fun _ => encodeInto_frame_isSome s.host.payload s.host
      rw [hf]
      exact ⟨_, rfl⟩
    · exact ⟨_, rfl⟩

theorem execLsTx_answers {s : State} (hg : HostGood s.host) : ∃ t, execLsTx s = .next t :=
  whenEnabled_answers fun he => by
    obtain ⟨b, hb⟩ := exists_txByte hg (by simpa [enabled] using he)
    rw [hb]
    exact ⟨_, rfl⟩

/-- Every transition of a good device answers a next state (R66, R80). -/
theorem exec_deviceOp_answers {i : Instr} {s : State} (hg : DeviceGood s.dev) (hi : isDeviceOp i = true) :
    ∃ t, exec i s = .next t := by
  cases i with
  | dsVerify => exact execDsVerify_answers hg
  | dsCommit => exact execDsCommit_answers hg
  | dsRbByte => exact execDsRbByte_answers hg
  | hsDArm | hsDSkip | hsDReq | hsDAck | dsErase | dsRxData | dsRxTerm | dsRxOver | dsRxEmpty | dsRbTerm =>
    exact whenEnabled_answers fun _ => ⟨_, rfl⟩
  | _ => exact Bool.noConfusion hi

/-- Every transition of a good host answers a next state (R66). -/
theorem exec_hostOp_answers {i : Instr} {s : State} (hg : HostGood s.host) (hi : isHostOp i = true) :
    ∃ t, exec i s = .next t := by
  cases i with
  | lsEncode => exact execLsEncode_answers s
  | lsTx => exact execLsTx_answers hg
  | hsHReq | hsHAck | hsHNak | lsRbData | lsRbTerm | lsRbOver => exact whenEnabled_answers fun _ => ⟨_, rfl⟩
  | _ => exact Bool.noConfusion hi

/-- A reaction of the host to an event answers a next state, whatever the state. -/
theorem exec_hostReaction_answers {i : Instr} (s : State) (hi : isHostReaction i = true) :
    ∃ t, exec i s = .next t := by
  cases i with
  | hsHTimeout | lsStart | lsRbTimeout | lsLinkfail => exact whenEnabled_answers fun _ => ⟨_, rfl⟩
  | _ => exact Bool.noConfusion hi

/-- A move that the port cannot bar and that fetches an operation of a kind which answers, or nothing enabled, answers. -/
theorem makeMove_answers {m : Move} {e : Encoding} {s : State} {p : Instr → Bool} (hf : fetched m s = some e)
    (hb : ∀ i, barred m i s = false) (hd : ReadsOp p (decode e))
    (hx : ∀ i, p i = true → ∃ t, exec i s = .next t) : ∃ t, makeMove m s = .next t := by
  generalize hde : decode e = d at hd
  cases hd with
  | @op i hi => rw [makeMove_of_decode_ok hf hde (hb i)]; exact hx i hi
  | blocked => exact ⟨s, makeMove_of_decode_error hf hde⟩

end Sys2Proof.Machine

/-! The statements about a step, a blocked operation and a good state's moves, settled. -/

namespace Sys2Proof.Proofs

open Sys2Proof Sys2Proof.Machine

/-- Settles O46: the guard of every operation that has one, and the reject of a blocked turn or a lost event. -/
theorem notEnabledChangesNothing : Obligations.NotEnabledChangesNothing :=
  ⟨fun _ _ => exec_of_not_enabled, fun _ _ _ => makeMove_of_decode_error⟩

/-- Settles O51, by the kind of operation that each turn and each event can fetch. -/
theorem ordinaryMovesNeverStop : Obligations.OrdinaryMovesNeverStop := by
  intro m s hg hm
  cases m with
  | turn r =>
    cases r with
    | device =>
      exact makeMove_answers rfl (fun _ => rfl) (decodeDev_readsOp _) fun _ => exec_deviceOp_answers hg.dev
    | host =>
      exact makeMove_answers rfl (fun _ => rfl) (decodeHostTurn_readsOp _ _ _) fun _ => exec_hostOp_answers hg.host
  | event e =>
    cases e with
    | reset r => cases r <;> exact ⟨_, rfl⟩
    | host e =>
      exact makeMove_answers rfl (fun _ => rfl) (decodeHostEvent_readsOp _ _ e) fun _ => exec_hostReaction_answers s
  | _ => exact Bool.noConfusion hm

/-- Settles O45: a step is the next move in the state without it, and a move is exec of what it fetches. -/
theorem stepRunsDecodedOperation : Obligations.StepRunsDecodedOperation := by
  refine ⟨fun _ => rfl, fun s m rest h => ⟨nextMove_of_agenda h, beginMove_of_agenda h⟩,
    fun s h => ⟨nextMove_of_no_agenda h, beginMove_of_no_agenda h⟩,
    fun s e i hf hd => ⟨makeMove_of_decode_ok hf hd, makeMove_of_barred hf hd⟩, fun s nbits w j hw hp => ?_⟩
  rw [step, nextMove_withFetchWord, beginMove_withFetchWord]
  -- the port's bar reads phases and counters, which clearing the outputs leaves
  have hbar : barred (.bench (.raw nbits w)) j { s with diag := [], reply := .none } = false := hp
  exact makeMove_of_decode_ok rfl (decodeTableWord_eq_some.mp hw) hbar

end Sys2Proof.Proofs

/-! SUPPORT. What keeps a DEVICE good: the ranges that no phase changes, what each phase asks for beside them, and each
transition of the sequencer (43_handshake.md, 44_link_session.md section 1). -/

namespace Sys2Proof.Machine

variable {d : DeviceInst}

/-! ## Counters -/

/-- A counter that is at most `CAP` does not wrap when it moves on (R8, log 24). -/
theorem cnt_toNat_add_one {a : Cnt} (ha : a.toNat ≤ Config.CAP) : (a + 1).toNat = a.toNat + 1 := by
  have hcap : a.toNat ≤ 2048 := ha
  bv_omega

theorem cnt_toNat_sub_one {a : Cnt} (ha : 1 ≤ a.toNat) : (a - 1).toNat + 1 = a.toNat := by
  bv_omega

/-- No error kind has the code that says there is no fault (R32, R43, R261). -/
theorem ErrKind.code_ne_zero (k : ErrKind) : k.code ≠ 0 := by cases k <;> decide

/-! ## Cells and the mirror -/

/-- A storage command at an address inside the array puts what it makes of the cell there (R153 to R155). -/
theorem nvCell_nvChange_self {a : Cnt} (f : NvCell → NvCell) (d : DeviceInst) (ha : a.toNat < Config.CAP) :
    nvCell (nvChange a f d).nv a.toNat = f (nvCell d.nv a.toNat) := by
  rw [nvCell_nvChange, if_pos ⟨by simp [nvRefuses, ha], rfl⟩]

theorem nvCell_nvChange_of_ne {a : Cnt} (f : NvCell → NvCell) (d : DeviceInst) {x : Nat} (hx : x ≠ a.toNat) :
    nvCell (nvChange a f d).nv x = nvCell d.nv x := by
  rw [nvCell_nvChange, if_neg fun h => hx h.2]

/-- A plain write into an erased cell programs it with the byte (R153). -/
theorem writtenCell_erasedCell (a : Nat) (b : Byte) : writtenCell a erasedCell b = programmedCell b := rfl

theorem erasedFrom_mono {m : NvMem} {lo lo' hi : Nat} (hl : lo ≤ lo') (he : erasedFrom m lo hi) :
    erasedFrom m lo' hi := fun a ha => he a (hl.trans ha)

theorem erasedFrom_empty (m : NvMem) (k : Nat) : erasedFrom m k k := fun _ hk ha => absurd ha hk.not_gt

/-- A storage command below the range leaves the range erased. -/
theorem erasedFrom_nvChange_of_lt {a : Cnt} {lo hi : Nat} (f : NvCell → NvCell) (ha : a.toNat < lo)
    (he : erasedFrom d.nv lo hi) : erasedFrom (nvChange a f d).nv lo hi := fun x hx hxhi => by
  rw [nvCell_nvChange_of_ne f d (by omega), he x hx hxhi]

/-- Erasing the cell at the end of an erased range lengthens the range (R154). -/
theorem erasedFrom_nvEraseCell {a : Cnt} {lo : Nat} (ha : a.toNat < Config.CAP) (he : erasedFrom d.nv lo a.toNat) :
    erasedFrom (nvEraseCell a d).nv lo (a.toNat + 1) := fun x hx hxa => by
  rcases Nat.lt_succ_iff_lt_or_eq.mp hxa with hlt | rfl
  · rw [nvEraseCell_eq, nvCell_nvChange_of_ne _ d hlt.ne, he x hx hlt]
  · rw [nvEraseCell_eq, nvCell_nvChange_self _ d ha]

/-- The mirror of the first `k` bytes depends on those entries and cells only. -/
theorem mirrored_congr {e : DeviceInst} {k : Nat} (hm : mirrored d k)
    (hb : ∀ i, i < k → tabGet e.buf i = tabGet d.buf i) (hn : ∀ i, i < k → nvCell e.nv i = nvCell d.nv i) :
    mirrored e k := fun i hi => by
  rw [hb i hi, hn i hi]
  exact hm i hi

theorem mirrored_mono {k l : Nat} (hkl : k ≤ l) (hm : mirrored d l) : mirrored d k :=
  fun i hi => hm i (hi.trans_le hkl)

/-- The mirror grows by an entry and a cell that agree (R65). -/
theorem mirrored_succ {k : Nat} {b : Byte} (hm : mirrored d k) (hb : tabGet d.buf k = some b) (ht : b ≠ Config.TERM)
    (hn : nvCell d.nv k = programmedCell b) : mirrored d (k + 1) := fun i hi => by
  rcases Nat.lt_succ_iff_lt_or_eq.mp hi with hlt | rfl
  · exact hm i hlt
  · exact ⟨b, hb, ht, hn⟩

theorem bufWritten_of_mirrored {k i : Nat} (hm : mirrored d k) (hi : i < k) : (tabGet d.buf i).isSome = true := by
  obtain ⟨b, hb, -, -⟩ := hm i hi
  rw [hb, Option.isSome_some]

/-! ## A good device, phase by phase -/

/-- What a good device keeps in every phase: canonical memory, and counters in range (R60, R26 to R28). -/
structure DeviceRanges (d : DeviceInst) : Prop where
  nvForm : NvMem.wf d.nv
  bufForm : Buf.wf Config.CAP d.buf
  eaRange : d.ea.toNat ≤ Config.CAP
  nRange : d.n.toNat ≤ Config.CAP
  sizeRange : d.size.toNat < Config.CAP

theorem DeviceGood.ranges (hg : DeviceGood d) : DeviceRanges d := { hg with }

theorem DeviceRanges.after_nvChange (hr : DeviceRanges d) (a : Cnt) (f : NvCell → NvCell) :
    DeviceRanges (nvChange a f d) where
  nvForm := NvMem.wf_nvChange a f hr.nvForm
  bufForm := by rw [nvChange_buf]; exact hr.bufForm
  eaRange := by rw [nvChange_ea]; exact hr.eaRange
  nRange := by rw [nvChange_n]; exact hr.nRange
  sizeRange := by rw [nvChange_size]; exact hr.sizeRange

theorem DeviceRanges.reset {m : NvMem} (hm : NvMem.wf m) : DeviceRanges { DeviceInst.reset with nv := m } where
  nvForm := hm
  bufForm := ⟨List.Pairwise.nil, fun _ he => absurd he List.not_mem_nil⟩
  eaRange := Nat.zero_le _
  nRange := Nat.zero_le _
  sizeRange := Nat.zero_lt_succ _

/-- Outside `D_FAULT` there is no fault code (R32). -/
theorem DeviceGood.dfault_eq_zero (hg : DeviceGood d) (hp : d.phase ≠ .dFault) : d.dfault = 0 :=
  not_not.mp fun hf => hp (hg.faultPhase.mpr hf)

theorem DeviceGood.of_erasing (hr : DeviceRanges d) (hp : d.phase = .dErase) (hs : d.hs = .idle) (hf : d.dfault = 0)
    (he : erasedFrom d.nv 0 d.ea.toNat) : DeviceGood d :=
  { hr with
    hsPhase := by rw [hs, hp]; rfl
    faultPhase := by simp [hp, hf]
    faultCode := by simp [hf]
    sizeOfN := by simp [hp, windowClosed]
    riRange := by simp [hp]
    erasing := fun _ => he
    armed := by simp [hp]
    aboveWindow := by simp [hp, windowOpen]
    bufWritten := by simp [hp, windowOpen]
    received := by simp [hp, windowOpen]
    committed := by simp [hp] }

theorem DeviceGood.of_armed (hr : DeviceRanges d) (hp : d.phase = .dAwait ∨ d.phase = .dReply) (hs : d.hs = .awaitPeer)
    (hf : d.dfault = 0) (he : erasedFrom d.nv 0 Config.CAP) : DeviceGood d := by
  rcases hp with hp | hp <;> exact { hr with
    hsPhase := by rw [hs, hp]; rfl
    faultPhase := by simp [hp, hf]
    faultCode := by simp [hf]
    sizeOfN := by simp [hp, windowClosed]
    riRange := by simp [hp]
    erasing := by simp [hp]
    armed := fun _ => he
    aboveWindow := by simp [hp, windowOpen]
    bufWritten := by simp [hp, windowOpen]
    received := by simp [hp, windowOpen]
    committed := by simp [hp] }

theorem DeviceGood.of_receiving (hr : DeviceRanges d) (hp : d.phase = .dRecv) (hs : d.hs = .synced) (hf : d.dfault = 0)
    (he : erasedFrom d.nv d.n.toNat Config.CAP) (hm : mirrored d d.n.toNat) : DeviceGood d :=
  { hr with
    hsPhase := by rw [hs, hp]; rfl
    faultPhase := by simp [hp, hf]
    faultCode := by simp [hf]
    sizeOfN := by simp [hp, windowClosed]
    riRange := by simp [hp]
    erasing := by simp [hp]
    armed := by simp [hp]
    aboveWindow := fun _ => he
    bufWritten := fun _ _ => bufWritten_of_mirrored hm
    received := fun _ _ => hm
    committed := by simp [hp] }

theorem DeviceGood.of_closed (hr : DeviceRanges d) (hp : d.phase = .dVerify ∨ d.phase = .dCommit) (hs : d.hs = .synced)
    (hf : d.dfault = 0) (hn : d.n.toNat = d.size.toNat + 1) (he : erasedFrom d.nv d.n.toNat Config.CAP)
    (hm : mirrored d d.n.toNat) : DeviceGood d := by
  rcases hp with hp | hp <;> exact { hr with
    hsPhase := by rw [hs, hp]; rfl
    faultPhase := by simp [hp, hf]
    faultCode := by simp [hf]
    sizeOfN := fun _ => hn
    riRange := by simp [hp]
    erasing := by simp [hp]
    armed := by simp [hp]
    aboveWindow := fun _ => he
    bufWritten := fun _ _ => bufWritten_of_mirrored hm
    received := fun _ _ => hm
    committed := by simp [hp] }

theorem DeviceGood.of_faulted (hr : DeviceRanges d) (hp : d.phase = .dFault) (hs : d.hs = .synced) (hf : d.dfault ≠ 0)
    (hc : d.dfault.toNat ≤ 2) : DeviceGood d :=
  { hr with
    hsPhase := by rw [hs, hp]; rfl
    faultPhase := iff_of_true hp hf
    faultCode := hc
    sizeOfN := by simp [hp, windowClosed]
    riRange := by simp [hp]
    erasing := by simp [hp]
    armed := by simp [hp]
    aboveWindow := by simp [hp, windowOpen]
    bufWritten := by simp [hp, windowOpen]
    received := by simp [hp, windowOpen]
    committed := by simp [hp] }

/-! ## Updates of registers that the invariant does not read -/

theorem DeviceGood.withAcc (hg : DeviceGood d) (v : Byte) : DeviceGood { d with acc := v } := { hg with }

theorem DeviceGood.after_nvReadEffect (hg : DeviceGood d) (a : Cnt) : DeviceGood (nvReadEffect a d) := by
  unfold nvReadEffect
  split
  · exact { hg with }
  · exact hg

/-- The storage controller may be used freely before the erase pass and in `D_FAULT` (R319, log 10). -/
theorem DeviceGood.after_nvChange (hg : DeviceGood d) (hp : d.phase = .dFault ∨ d.phase = .dErase ∧ d.ea = 0) (a : Cnt)
    (f : NvCell → NvCell) : DeviceGood (nvChange a f d) := by
  have hr : DeviceRanges (nvChange a f d) := hg.ranges.after_nvChange a f
  have hs := hg.hsPhase
  rcases hp with hp | ⟨hp, hea⟩
  · exact .of_faulted hr (by simp [hp]) (by simp [hs, hp, hsOfDPhase]) (by simpa using hg.faultPhase.mp hp)
      (by simpa using hg.faultCode)
  · exact .of_erasing hr (by simp [hp]) (by simp [hs, hp, hsOfDPhase])
      (by simpa using hg.dfault_eq_zero (by simp [hp])) (by simpa [hea] using erasedFrom_empty _ 0)

/-- RESET(DEVICE) and a power cycle (R300, R301). -/
theorem DeviceGood.reset {m : NvMem} (hm : NvMem.wf m) : DeviceGood { DeviceInst.reset with nv := m } :=
  .of_erasing (.reset hm) rfl rfl rfl (erasedFrom_empty _ 0)

/-! ## The transitions -/

theorem DeviceGood.eraseNext (hg : DeviceGood d) (hp : d.phase = .dErase) (ha : d.ea.toNat < Config.CAP) :
    DeviceGood { nvEraseCell d.ea d with ea := d.ea + 1 } := by
  have hea : (d.ea + 1).toNat = d.ea.toNat + 1 := cnt_toNat_add_one ha.le
  refine .of_erasing { hg.ranges.after_nvChange _ _ with eaRange := ?_ } ?_ ?_ ?_ ?_
  · show (d.ea + 1).toNat ≤ Config.CAP
    omega
  · simp [nvEraseCell_eq, hp]
  · simp [nvEraseCell_eq, hg.hsPhase, hp, hsOfDPhase]
  · simp [nvEraseCell_eq, hg.dfault_eq_zero, hp]
  · show erasedFrom (nvEraseCell d.ea d).nv 0 (d.ea + 1).toNat
    rw [hea]
    exact erasedFrom_nvEraseCell ha (hg.erasing hp)

theorem DeviceGood.arm (hg : DeviceGood d) (hp : d.phase = .dErase) (ha : d.ea.toNat = Config.CAP) :
    DeviceGood { d with phase := .dAwait, hs := .awaitPeer } :=
  .of_armed { hg.ranges with } (.inl rfl) rfl (hg.dfault_eq_zero (by simp [hp])) (ha ▸ hg.erasing hp)

theorem DeviceGood.takeRequest (hg : DeviceGood d) (hp : d.phase = .dAwait) :
    DeviceGood { d with phase := .dReply } :=
  .of_armed { hg.ranges with } (.inr rfl) (by simp [hg.hsPhase, hp, hsOfDPhase]) (hg.dfault_eq_zero (by simp [hp]))
    (hg.armed (.inl hp))

theorem DeviceGood.acknowledge (hg : DeviceGood d) (hp : d.phase = .dReply) :
    DeviceGood { d with hs := .synced, phase := .dRecv, n := 0, size := 0, vdone := false, vok := false } :=
  .of_receiving { hg.ranges with nRange := Nat.zero_le _, sizeRange := Nat.zero_lt_succ _ } rfl rfl
    (hg.dfault_eq_zero (by simp [hp])) (hg.armed (.inr hp)) fun _ hi => absurd hi (Nat.not_lt_zero _)

/-- DS.RX.DATA writes an erased cell (R80) and keeps the mirror (R65). -/
theorem DeviceGood.store {b : Byte} (hg : DeviceGood d) (hp : d.phase = .dRecv) (hn : d.n.toNat < Config.CAP)
    (hb : b ≠ Config.TERM) :
    DeviceGood { nvWriteByte d.n b d with buf := tabSet d.buf d.n.toNat b, n := d.n + 1 } := by
  have ho : windowOpen d.phase = true := by rw [hp]; rfl
  have hsucc : (d.n + 1).toNat = d.n.toNat + 1 := cnt_toNat_add_one hn.le
  have herased : erasedFrom d.nv d.n.toNat Config.CAP := hg.aboveWindow ho
  have hmirror : mirrored d d.n.toNat := hg.received ho (by simp [hp])
  refine .of_receiving
    { hg.ranges.after_nvChange _ _ with bufForm := Buf.wf_tabSet b hn hg.bufForm, nRange := ?_ } ?_ ?_ ?_ ?_ ?_
  · show (d.n + 1).toNat ≤ Config.CAP
    omega
  · simp [nvWriteByte_eq, hp]
  · simp [nvWriteByte_eq, hg.hsPhase, hp, hsOfDPhase]
  · simp [nvWriteByte_eq, hg.dfault_eq_zero, hp]
  · show erasedFrom (nvWriteByte d.n b d).nv (d.n + 1).toNat Config.CAP
    rw [hsucc]
    exact erasedFrom_nvChange_of_lt _ (Nat.lt_succ_self _) (erasedFrom_mono (Nat.le_succ _) herased)
  · show mirrored _ (d.n + 1).toNat
    rw [hsucc]
    refine mirrored_succ (mirrored_congr hmirror (fun i hi => ?_) fun i hi => ?_) ?_ hb ?_
    · rw [tabGet_tabSet, if_neg hi.ne]
    · exact nvCell_nvChange_of_ne _ d hi.ne
    · rw [tabGet_tabSet, if_pos rfl]
    · show nvCell (nvChange d.n _ d).nv _ = _
      rw [nvCell_nvChange_self _ d hn, herased _ le_rfl hn, writtenCell_erasedCell]

theorem DeviceGood.closeWindow (hg : DeviceGood d) (hp : d.phase = .dRecv) (hn : 1 ≤ d.n.toNat) :
    DeviceGood { d with size := d.n - 1, phase := .dVerify } := by
  have hsize : (d.n - 1).toNat + 1 = d.n.toNat := cnt_toNat_sub_one hn
  have ho : windowOpen d.phase = true := by rw [hp]; rfl
  have hle := hg.nRange
  refine .of_closed { hg.ranges with sizeRange := ?_ } (.inl rfl) (by simp [hg.hsPhase, hp, hsOfDPhase])
    (hg.dfault_eq_zero (by simp [hp])) hsize.symm (hg.aboveWindow ho) (hg.received ho (by simp [hp]))
  show (d.n - 1).toNat < Config.CAP
  omega

/-- The two device faults arise in `D_RECV` (R214, R215, R266). -/
theorem DeviceGood.raise {k : ErrKind} (hg : DeviceGood d) (hp : d.phase = .dRecv)
    (hk : k.code.toNat ≤ 2) : DeviceGood { d with dfault := k.code, phase := .dFault } :=
  .of_faulted { hg.ranges with } rfl (by simp [hg.hsPhase, hp, hsOfDPhase]) k.code_ne_zero hk

theorem DeviceGood.verify (hg : DeviceGood d) (hp : d.phase = .dVerify) (v : Byte) (ok : Bool) :
    DeviceGood { d with acc := v, vok := ok, vdone := true, phase := .dCommit } :=
  .of_closed { hg.ranges with } (.inr rfl) (by simp [hg.hsPhase, hp, hsOfDPhase]) (hg.dfault_eq_zero (by simp [hp]))
    (hg.sizeOfN (by simp [hp, windowClosed])) (hg.aboveWindow (by simp [hp, windowOpen]))
    (hg.received (by simp [hp, windowOpen]) (by simp [hp]))

/-- DS.COMMIT replaces the received checksum at `NV[SIZE]` by the payload's (R81, R217). -/
theorem DeviceGood.commit {q : List Byte} (hg : DeviceGood d) (hp : d.phase = .dCommit) (hq : rxPayload d = some q) :
    DeviceGood
      { nvEraseWrite d.size (checksum q) d with
        acc := checksum q, csum := checksum q, ri := 0, phase := .dReadback } := by
  have ho : windowOpen d.phase = true := by rw [hp]; rfl
  have hn : d.n.toNat = d.size.toNat + 1 := hg.sizeOfN (by simp [hp, windowClosed])
  have hmirror : mirrored d d.size.toNat := mirrored_mono (by omega) (hg.received ho (by simp [hp]))
  refine { hg.ranges.after_nvChange _ _ with
    hsPhase := ?_
    faultPhase := ?_
    faultCode := ?_
    sizeOfN := fun _ => ?_
    riRange := fun _ => Nat.zero_le _
    erasing := by simp
    armed := by simp
    aboveWindow := fun _ => ?_
    bufWritten := fun _ => ?_
    received := by simp
    committed := fun _ => ⟨?_, ?_, ?_⟩ }
  · simp [nvEraseWrite_eq, hg.hsPhase, hp, hsOfDPhase]
  · simp [nvEraseWrite_eq, hg.dfault_eq_zero, hp]
  · simpa [nvEraseWrite_eq] using hg.faultCode
  · simpa [nvEraseWrite_eq] using hn
  · simpa only [nvEraseWrite_eq, nvChange_n] using
      erasedFrom_nvChange_of_lt _ (by omega) (hg.aboveWindow ho)
  · simpa only [nvEraseWrite_eq, nvChange_n, nvChange_buf] using hg.bufWritten ho
  · simp only [nvEraseWrite_eq, nvChange_size]
    exact mirrored_congr hmirror (fun _ _ => by rw [nvChange_buf]) fun _ hi => nvCell_nvChange_of_ne _ d hi.ne
  · simpa only [nvEraseWrite_eq, nvChange_size] using nvCell_nvChange_self _ d hg.sizeRange
  · have hsame : bufTake d.buf d.size.toNat = some q := hq
    simp [rxPayload, nvEraseWrite_eq, hsame]

theorem DeviceGood.readBack (hg : DeviceGood d) (hri : d.ri.toNat ≤ d.size.toNat) :
    DeviceGood { d with ri := d.ri + 1 } := by
  have hsucc : (d.ri + 1).toNat = d.ri.toNat + 1 := cnt_toNat_add_one (hri.trans hg.sizeRange.le)
  exact { hg with riRange := fun _ => by show (d.ri + 1).toNat ≤ d.size.toNat + 1; omega }

theorem DeviceGood.rearm (hg : DeviceGood d) (hp : d.phase = .dReadback) :
    DeviceGood { d with phase := .dErase, ea := 0, hs := .idle } :=
  .of_erasing { hg.ranges with eaRange := Nat.zero_le _ } rfl rfl (hg.dfault_eq_zero (by simp [hp]))
    (erasedFrom_empty _ 0)

end Sys2Proof.Machine

/-! SUPPORT. What keeps a HOST good: the ranges that no phase changes, the host without and with a failure, and each
transition and reaction of the sequencer (43_handshake.md, 44_link_session.md section 2). -/

namespace Sys2Proof.Machine

variable {h : HostInst}

/-! ## The frame -/

theorem offset_lt_or_off_of_fiLegal {mode : BitVec 2} {offset flen : Cnt} {value : Byte}
    (hl : fiLegal mode offset value flen = true) : mode = fiOff ∨ offset.toNat < flen.toNat :=
  or_iff_not_imp_left.mpr fun hm => offset_lt_of_fiLegal hm hl

/-- An injection leaves no entry of the frame without a value (R176). -/
theorem fiApplied_isSome {mode : BitVec 2} {offset : Cnt} {value : Byte} {frame f : Buf}
    (hf : fiApplied mode offset value frame = some f) {k : Nat} (hk : (tabGet frame k).isSome = true) :
    (tabGet f k).isSome = true := by
  rw [tabGet_fiApplied hf]
  split_ifs
  · rw [Option.isSome_map, hk]
  · rfl
  · exact hk

/-- The length of a frame whose payload fits (R103, R171). -/
theorem toNat_encodeInto_flen {p : List Byte} (hp : p.length ≤ Config.MAXPAY) (h : HostInst) :
    (encodeInto p h).flen.toNat = p.length + 2 := by
  have hmax : p.length ≤ 2047 := hp
  rw [encodeInto_flen, BitVec.toNat_ofNat]
  exact Nat.mod_eq_of_lt (by omega)

/-! ## A good host, without and with a failure -/

/-- What a good host keeps in every phase: canonical memory, counters in range, and the readback written as far as `RN`
(R40, R42). -/
structure HostRanges (h : HostInst) : Prop where
  frameForm : Buf.wf (Config.CAP + 1) h.frame
  rbForm : Buf.wf Config.CAP h.rb
  rnRange : h.rn.toNat ≤ Config.CAP
  flenRange : h.flen.toNat ≤ Config.CAP + 1
  rbWritten : ∀ i, i < h.rn.toNat → ∃ b, tabGet h.rb i = some b ∧ b ≠ Config.TERM

theorem HostGood.ranges (hg : HostGood h) : HostRanges h := { hg with }

/-- The frame of an attempt is written, as long as its payload asks (R40, R66). -/
structure FrameBuilt (h : HostInst) : Prop where
  frameLength : h.flen.toNat = h.payload.length + 2
  frameWritten : ∀ i, i < h.flen.toNat → (tabGet h.frame i).isSome = true

theorem HostGood.frameBuilt (hg : HostGood h) (hr : frameReady h.phase = true) : FrameBuilt h :=
  ⟨hg.frameLength hr, hg.frameWritten hr⟩

/-- Outside `H_FAILED` there is no failure code (R43). -/
theorem HostGood.hfault_eq_zero (hg : HostGood h) (hp : h.phase ≠ .hFailed) : h.hfault = 0 :=
  not_not.mp fun hf => hp (hg.faultPhase.mpr hf)

/-- Outside `H_FAILED` the handshake has not failed (R191). -/
theorem HostGood.hs_ne_failed (hg : HostGood h) (hp : h.phase ≠ .hFailed) : h.hs ≠ .failed := by
  have hs := hg.hsPhase
  unfold hostHsGood at hs
  cases hph : h.phase with
  | hFailed => exact absurd hph hp
  | _ => simp_all

/-- A host that has not failed: the fault code is 0 and what the phase says of `HHS`, the frame and `TI` holds. -/
theorem HostGood.of_running (hr : HostRanges h) (hp : h.phase ≠ .hFailed) (hf : h.hfault = 0) (hs : hostHsGood h)
    (hb : frameReady h.phase = true → FrameBuilt h) (hsending : h.phase = .hSend → h.ti.toNat < h.flen.toNat)
    (hunsent : frameUnsent h.phase = true → h.ti = 0) (hsent : h.phase = .hReadback ∨ h.phase = .hDone → h.ti ≠ 0) :
    HostGood h :=
  { hr with
    hsPhase := hs
    faultPhase := iff_of_false hp (not_not.mpr hf)
    faultCode := by simp [hf]
    frameLength := fun h => (hb h).frameLength
    frameWritten := fun h => (hb h).frameWritten
    sending := hsending
    unsent := hunsent
    sent := hsent
    precise := by simp [hf] }

/-! ## The unit operations on the host -/

theorem HostGood.withAcc (hg : HostGood h) (v : Byte) : HostGood { h with acc := v } := { hg with }

/-- A new frame in a phase that has none (R171). -/
theorem HostGood.after_encodeInto {p : List Byte} (hg : HostGood h) (hr : frameReady h.phase = false)
    (hp : p.length ≤ Config.MAXPAY) : HostGood (encodeInto p h) := by
  have hready : frameReady (encodeInto p h).phase ≠ true := by simp [hr]
  have hmax : Config.MAXPAY + 1 = Config.CAP := rfl
  exact { hg with
    frameForm := Buf.wf_encodeInto hp
    flenRange := by rw [toNat_encodeInto_flen hp]; omega
    frameLength := fun h => absurd h hready
    frameWritten := fun h => absurd h hready
    sending := fun hs => absurd (congrArg frameReady hs) hready }

theorem FrameBuilt.of_encodeInto (h : HostInst) (hp : h.payload.length ≤ Config.MAXPAY) :
    FrameBuilt (encodeInto h.payload h) :=
  ⟨toNat_encodeInto_flen hp h, fun _ => encodeInto_frame_isSome _ h⟩

/-- A legal injection into the frame, in any phase (R176). -/
theorem HostGood.inject {mode : BitVec 2} {offset : Cnt} {value : Byte} {f : Buf} (hg : HostGood h)
    (hl : fiLegal mode offset value h.flen = true) (hf : fiApplied mode offset value h.frame = some f) :
    HostGood { h with frame := f } :=
  { hg with
    frameForm := Buf.wf_fiApplied ((offset_lt_or_off_of_fiLegal hl).imp_right fun ho => by
      have := hg.flenRange
      omega) hg.frameForm hf
    frameWritten := fun hr i hi => fiApplied_isSome hf (hg.frameWritten hr i hi) }

theorem FrameBuilt.inject {mode : BitVec 2} {offset : Cnt} {value : Byte} {f : Buf} (hb : FrameBuilt h)
    (hf : fiApplied mode offset value h.frame = some f) : FrameBuilt { h with frame := f } :=
  ⟨hb.frameLength, fun i hi => fiApplied_isSome hf (hb.frameWritten i hi)⟩

/-- RESET(HOST) and a power cycle (R300, R301). -/
theorem HostGood.reset : HostGood HostInst.reset := by
  obtain ⟨-, -, hframe, hrb⟩ := Memory.wf_reset
  exact .of_running ⟨hframe, hrb, Nat.zero_le _, Nat.zero_le _, fun _ hi => absurd hi (Nat.not_lt_zero _)⟩ (by decide)
    rfl rfl (fun hr => Bool.noConfusion hr) (by decide) (fun _ => rfl) (by decide)

/-! ## Failures -/

/-- A failure of an attempt that has not failed (R267, R268), precise at the kinds that R269 names. -/
theorem HostGood.raise {k : ErrKind} (hg : HostGood h) (hp : h.phase ≠ .hFailed) (hk : k ≠ .emptyFrame)
    (ht : k.code = 1 ∨ k.code = 3 ∨ k.code = 4 ∨ k.code = 7 → h.ti = 0) :
    HostGood { h with
      hfault := k.code
      hs := if k = .handshakeTimeout ∨ k = .handshakeMismatch then .failed else h.hs
      phase := .hFailed } :=
  { hg.ranges with
    hsPhase := by
      have hs := hg.hs_ne_failed hp
      cases k <;> simp [hostHsGood, ErrKind.code, hs]
    faultPhase := iff_of_true rfl k.code_ne_zero
    faultCode := by cases k <;> simp_all [ErrKind.code]
    frameLength := by simp [frameReady]
    frameWritten := by simp [frameReady]
    sending := by simp
    unsent := by simp [frameUnsent]
    sent := by simp
    precise := ht }

/-- Before a byte of the frame is sent every failure is precise (R269). -/
theorem HostGood.raise_of_unsent {k : ErrKind} (hg : HostGood h) (hu : frameUnsent h.phase = true)
    (hk : k ≠ .emptyFrame) : HostGood { h with
      hfault := k.code
      hs := if k = .handshakeTimeout ∨ k = .handshakeMismatch then .failed else h.hs
      phase := .hFailed } :=
  hg.raise (fun hp => by simp [hp, frameUnsent] at hu) hk fun _ => hg.unsent hu

/-- A lost link or an overrun may come with bytes of the frame sent (R269). -/
theorem HostGood.raise_of_late {k : ErrKind} (hg : HostGood h) (hp : h.phase ≠ .hFailed)
    (hk : k = .linkFailure ∨ k = .readbackOverrun) : HostGood { h with
      hfault := k.code
      hs := if k = .handshakeTimeout ∨ k = .handshakeMismatch then .failed else h.hs
      phase := .hFailed } := by
  rcases hk with rfl | rfl
  · exact hg.raise hp (by decide) fun hc => absurd hc (by decide)
  · exact hg.raise hp (by decide) fun hc => absurd hc (by decide)

/-! ## The transitions and reactions -/

theorem HostGood.start (hg : HostGood h) (p : List Byte) (mode : BitVec 2) (offset : Cnt) (value : Byte) :
    HostGood { h with
      payload := p, fiMode := mode, fiOffset := offset, fiValue := value, hfault := 0, hs := .idle, ti := 0, rn := 0,
      flen := 0, phase := .hEncode } :=
  .of_running
    { hg.ranges with
      rnRange := Nat.zero_le _, flenRange := Nat.zero_le _, rbWritten := fun _ hi => absurd hi (Nat.not_lt_zero _) }
    (by simp) rfl rfl (by simp [frameReady]) (by simp) (fun _ => rfl) (by simp)

/-- LS.ENCODE hands the attempt over once its frame is built (R223). -/
theorem HostGood.frame (hg : HostGood h) (hp : h.phase = .hEncode) (hb : FrameBuilt h) :
    HostGood { h with phase := .hReq } :=
  .of_running { hg.ranges with } (by simp) (hg.hfault_eq_zero (by simp [hp]))
    (by simpa [hostHsGood, hp] using hg.hsPhase) (fun _ => ⟨hb.frameLength, hb.frameWritten⟩) (by simp)
    (fun _ => hg.unsent (by simp [hp, frameUnsent])) (by simp)

theorem HostGood.request (hg : HostGood h) (hp : h.phase = .hReq) :
    HostGood { h with hs := .awaitPeer, phase := .hAwait } :=
  .of_running { hg.ranges with } (by simp) (hg.hfault_eq_zero (by simp [hp])) rfl
    (fun _ => { hg.frameBuilt (by simp [hp, frameReady]) with }) (by simp)
    (fun _ => hg.unsent (by simp [hp, frameUnsent])) (by simp)

theorem HostGood.takeReply (hg : HostGood h) (hp : h.phase = .hAwait) :
    HostGood { h with hs := .synced, phase := .hSend, ti := 0 } := by
  have hb : FrameBuilt h := hg.frameBuilt (by simp [hp, frameReady])
  refine .of_running { hg.ranges with } (by simp) (hg.hfault_eq_zero (by simp [hp])) rfl (fun _ => { hb with })
    (fun _ => ?_) (fun _ => rfl) (by simp)
  show 0 < h.flen.toNat
  rw [hb.frameLength]
  exact Nat.succ_pos _

/-- LS.TX moves on inside the frame, and to the readback at its end (R224, R269). -/
theorem HostGood.send (hg : HostGood h) (hp : h.phase = .hSend) :
    HostGood { h with ti := h.ti + 1, phase := if h.ti + 1 = h.flen then .hReadback else h.phase } := by
  have hb : FrameBuilt h := hg.frameBuilt (by simp [hp, frameReady])
  have hs : h.hs = .synced := by simpa [hostHsGood, hp] using hg.hsPhase
  have hf : h.hfault = 0 := hg.hfault_eq_zero (by simp [hp])
  have hti : h.ti.toNat < h.flen.toNat := hg.sending hp
  have hsucc : (h.ti + 1).toNat = h.ti.toNat + 1 := cnt_toNat_add_one (by have := hg.flenRange; omega)
  by_cases hend : h.ti + 1 = h.flen
  · simp only [if_pos hend]
    exact .of_running { hg.ranges with } (by simp) hf hs (fun _ => { hb with }) (by simp) (by simp [frameUnsent])
      fun _ hzero => by rw [show h.ti + 1 = 0 from hzero] at hsucc; simp at hsucc
  · simp only [if_neg hend, hp]
    refine .of_running { hg.ranges with } (by simp) hf hs (fun _ => { hb with }) (fun _ => ?_) (by simp [frameUnsent])
      (by simp)
    have hne : (h.ti + 1).toNat ≠ h.flen.toNat := fun he => hend (BitVec.eq_of_toNat_eq he)
    show (h.ti + 1).toNat < h.flen.toNat
    omega

/-- LS.RB.DATA collects a byte that is not the terminator (R225). -/
theorem HostGood.collect {b : Byte} (hg : HostGood h) (hn : h.rn.toNat < Config.CAP) (hb : b ≠ Config.TERM) :
    HostGood { h with rb := tabSet h.rb h.rn.toNat b, rn := h.rn + 1 } := by
  have hsucc : (h.rn + 1).toNat = h.rn.toNat + 1 := cnt_toNat_add_one hn.le
  exact { hg with
    rbForm := Buf.wf_tabSet b hn hg.rbForm
    rnRange := by show (h.rn + 1).toNat ≤ Config.CAP; omega
    rbWritten := fun i hi => by
      rw [show (h.rn + 1).toNat = h.rn.toNat + 1 from hsucc] at hi
      show ∃ c, tabGet (tabSet h.rb h.rn.toNat b) i = some c ∧ c ≠ Config.TERM
      rw [tabGet_tabSet]
      split_ifs with hlast
      · exact ⟨b, rfl, hb⟩
      · exact hg.rbWritten i (by omega) }

theorem HostGood.finish (hg : HostGood h) (hp : h.phase = .hReadback) : HostGood { h with phase := .hDone } :=
  .of_running { hg.ranges with } (by simp) (hg.hfault_eq_zero (by simp [hp]))
    (by simpa [hostHsGood, hp] using hg.hsPhase) (by simp [frameReady]) (by simp) (by simp [frameUnsent])
    fun _ => hg.sent (.inl hp)

end Sys2Proof.Machine

/-! SUPPORT. What the operations can do, by agent, what they leave of the other side, and that every operation and every
move keeps a good state good. -/

namespace Sys2Proof.Machine

variable {s t : State}

/-! ## Guarded operations, inverted once -/

/-- A guarded operation that always answers keeps what its effect keeps. -/
theorem keeps_of_whenEnabled (P : State → Prop) {i : Instr} {u : State} (h : whenEnabled i s (.next u) = .next t) (hs : P s)
    (hu : enabled i s = true → P u) : P t := by
  rcases whenEnabled_next h with ⟨he, hnext⟩ | ⟨-, rfl⟩
  · obtain rfl := Host.Outcome.next.inj hnext
    exact hu he
  · exact hs

/-- Everything DS.VERIFY can do (R216). -/
theorem execDsVerify_next (h : execDsVerify s = .next t) :
    t = s ∨ ∃ w, s.dev.phase = .dVerify ∧ rxWindow s.dev = some w ∧
      t = { s with
        dev := { s.dev with
          acc := checksum w, vok := vokOf (verdictOf (checksum w)), vdone := true, phase := .dCommit }
        diag := diagOf (verdictOf (checksum w)) } := by
  rcases whenEnabled_next h with ⟨he, hnext⟩ | ⟨-, hsame⟩
  · split at hnext
    · next w hw => exact .inr ⟨w, by simpa [enabled] using he, hw, (Host.Outcome.next.inj hnext).symm⟩
    · cases hnext
  · exact .inl hsame

/-- Everything DS.COMMIT can do (R217). -/
theorem execDsCommit_next (h : execDsCommit s = .next t) :
    t = s ∨ ∃ q, s.dev.phase = .dCommit ∧ rxPayload s.dev = some q ∧
      t = setDev { nvEraseWrite s.dev.size (checksum q) s.dev with
        acc := checksum q, csum := checksum q, ri := 0, phase := .dReadback } s := by
  rcases whenEnabled_next h with ⟨he, hnext⟩ | ⟨-, hsame⟩
  · split at hnext
    · next q hq => exact .inr ⟨q, by simpa [enabled] using he, hq, (Host.Outcome.next.inj hnext).symm⟩
    · cases hnext
  · exact .inl hsame

/-- Everything DS.RB.BYTE can do (R218). -/
theorem execDsRbByte_next (h : execDsRbByte s = .next t) :
    t = s ∨ ∃ b, s.dev.ri.toNat ≤ s.dev.size.toNat ∧
      t = txD2H b (setDev { s.dev with ri := s.dev.ri + 1 } s) := by
  rcases whenEnabled_next h with ⟨he, hnext⟩ | ⟨-, hsame⟩
  · obtain ⟨-, hri⟩ : s.dev.phase = .dReadback ∧ s.dev.ri.toNat ≤ s.dev.size.toNat := by simpa [enabled] using he
    split at hnext
    · next b _ => exact .inr ⟨b, hri, (Host.Outcome.next.inj hnext).symm⟩
    · cases hnext
  · exact .inl hsame

/-- The host whose frame LS.ENCODE has built and, where the injector is on, altered (R223). -/
def isFramed (h g : HostInst) : Prop :=
  g = encodeInto h.payload h ∨
    ∃ f, fiLegal h.fiMode h.fiOffset h.fiValue (encodeInto h.payload h).flen = true ∧
      fiApplied h.fiMode h.fiOffset h.fiValue (encodeInto h.payload h).frame = some f ∧
      g = { encodeInto h.payload h with frame := f }

/-- Everything LS.ENCODE can do (R223, R264). -/
theorem execLsEncode_next (h : execLsEncode s = .next t) :
    t = s ∨ s.host.phase = .hEncode ∧
      (t = raiseHost .payloadTooLarge s ∨
        s.host.payload.length ≤ Config.MAXPAY ∧
          (t = raiseHost .fiConfig (setHost (encodeInto s.host.payload s.host) s) ∨
            ∃ g, isFramed s.host g ∧ t = setHost { g with phase := .hReq } s)) := by
  rcases whenEnabled_next h with ⟨he, hnext⟩ | ⟨-, hsame⟩
  · refine .inr ⟨by simpa [enabled] using he, ?_⟩
    dsimp only at hnext
    split_ifs at hnext with hlen hoff hlegal
    · exact .inl (Host.Outcome.next.inj hnext).symm
    · exact .inr ⟨Nat.le_pred_of_lt (not_le.mp hlen), .inr ⟨_, .inl rfl, (Host.Outcome.next.inj hnext).symm⟩⟩
    · split at hnext
      · next f hf =>
        exact .inr ⟨Nat.le_pred_of_lt (not_le.mp hlen),
          .inr ⟨_, .inr ⟨f, hlegal, hf, rfl⟩, (Host.Outcome.next.inj hnext).symm⟩⟩
      · cases hnext
    · exact .inr ⟨Nat.le_pred_of_lt (not_le.mp hlen), .inl (Host.Outcome.next.inj hnext).symm⟩
  · exact .inl hsame

/-- Everything LS.TX can do (R224). -/
theorem execLsTx_next (h : execLsTx s = .next t) :
    t = s ∨ ∃ b, s.host.phase = .hSend ∧
      t = txH2D b (setHost { s.host with
        ti := s.host.ti + 1, phase := if s.host.ti + 1 = s.host.flen then .hReadback else s.host.phase } s) := by
  rcases whenEnabled_next h with ⟨he, hnext⟩ | ⟨-, hsame⟩
  · split at hnext
    · next b _ => exact .inr ⟨b, by simpa [enabled] using he, (Host.Outcome.next.inj hnext).symm⟩
    · cases hnext
  · exact .inl hsame

/-- Everything FI.APPLY can do (R176, R177, log 14). -/
theorem execFiApply_next {mode : BitVec 2} {offset : Cnt} {value : Byte} (h : execFiApply mode offset value s = .next t) :
    t = s ∨
      (∃ f, fiLegal mode offset value s.host.flen = true ∧ fiApplied mode offset value s.host.frame = some f ∧
        t = setHost { s.host with frame := f } s) ∨
      fiMayRaise s.host = true ∧ t = raiseHost .fiConfig s := by
  rcases whenEnabled_next h with ⟨he, hnext⟩ | ⟨-, hsame⟩
  · split_ifs at hnext with hlegal
    · split at hnext
      · next f hf => exact .inr (.inl ⟨f, hlegal, hf, (Host.Outcome.next.inj hnext).symm⟩)
      · cases hnext
    · exact .inr (.inr ⟨by simpa [enabled, hlegal] using he, (Host.Outcome.next.inj hnext).symm⟩)
  · exact .inl hsame

/-- Everything FC.ENCODE can do (R171). -/
theorem execFcEncode_next {p : List Byte} (h : execFcEncode p s = .next t) :
    p.length ≤ Config.MAXPAY ∧ t = setHost (encodeInto p s.host) s := by
  unfold execFcEncode at h
  split_ifs at h with hp
  exact ⟨hp, (Host.Outcome.next.inj h).symm⟩

/-! ## The other side -/

/-- A device transition leaves the host alone (R60, R69). -/
theorem exec_deviceOp_host {i : Instr} (hi : isDeviceOp i = true) (h : exec i s = .next t) : t.host = s.host := by
  cases i with
  | dsVerify => rcases execDsVerify_next h with rfl | ⟨w, -, -, rfl⟩ <;> rfl
  | dsCommit => rcases execDsCommit_next h with rfl | ⟨q, -, -, rfl⟩ <;> rfl
  | dsRbByte => rcases execDsRbByte_next h with rfl | ⟨b, -, rfl⟩ <;> rfl
  | hsDArm | hsDSkip | hsDReq | hsDAck | dsErase | dsRxData | dsRxTerm | dsRxOver | dsRxEmpty | dsRbTerm =>
    exact keeps_of_whenEnabled (·.host = s.host) h rfl fun _ => rfl
  | _ => exact Bool.noConfusion hi

/-- What the host sequencer leaves of the device's side: its registers, and in `H2D` the bytes in flight (R60, R69). -/
structure DeviceSideKept (s t : State) : Prop where
  dev : t.dev = s.dev
  h2d : ∃ w, t.h2d = s.h2d ++ w

theorem DeviceSideKept.of_eq (hd : t.dev = s.dev) (hc : t.h2d = s.h2d) : DeviceSideKept s t :=
  ⟨hd, [], by rw [hc, List.append_nil]⟩

theorem DeviceSideKept.refl (s : State) : DeviceSideKept s s := .of_eq rfl rfl

/-- A transition or a reaction of the host sequencer leaves the device's side alone. -/
theorem exec_hostSequencer_deviceSideKept {i : Instr} (hi : isHostOp i = true ∨ isHostReaction i = true)
    (h : exec i s = .next t) : DeviceSideKept s t := by
  cases i with
  | lsEncode =>
    rcases execLsEncode_next h with rfl | ⟨-, rfl | ⟨-, rfl | ⟨g, -, rfl⟩⟩⟩ <;> exact .of_eq rfl rfl
  | lsTx =>
    rcases execLsTx_next h with rfl | ⟨b, -, rfl⟩
    · exact .refl t
    · exact ⟨rfl, [b], rfl⟩
  | hsHReq => exact keeps_of_whenEnabled (DeviceSideKept s) h (.refl s) fun _ => ⟨rfl, _, rfl⟩
  | hsHAck | hsHNak | hsHTimeout | lsStart | lsRbData | lsRbTerm | lsRbOver | lsRbTimeout | lsLinkfail =>
    exact keeps_of_whenEnabled (DeviceSideKept s) h (.refl s) fun _ => .of_eq rfl rfl
  | _ => simp [isHostOp, isHostReaction] at hi

/-! ## The sequencers keep their own side good -/

theorem deviceGood_of_whenEnabled {i : Instr} {u : State} (h : whenEnabled i s (.next u) = .next t)
    (hg : DeviceGood s.dev) (hu : enabled i s = true → DeviceGood u.dev) : DeviceGood t.dev :=
  keeps_of_whenEnabled (DeviceGood ·.dev) h hg hu

theorem hostGood_of_whenEnabled {i : Instr} {u : State} (h : whenEnabled i s (.next u) = .next t)
    (hg : HostGood s.host) (hu : enabled i s = true → HostGood u.host) : HostGood t.host :=
  keeps_of_whenEnabled (HostGood ·.host) h hg hu

theorem exec_deviceOp_keeps_good {i : Instr} (hg : DeviceGood s.dev) (hi : isDeviceOp i = true)
    (h : exec i s = .next t) : DeviceGood t.dev := by
  cases i with
  | hsDArm =>
    refine deviceGood_of_whenEnabled h hg fun he => ?_
    obtain ⟨hp, hea⟩ : s.dev.phase = .dErase ∧ s.dev.ea.toNat = Config.CAP := by simpa [enabled] using he
    exact hg.arm hp hea
  | hsDSkip b => exact deviceGood_of_whenEnabled h hg fun _ => hg
  | hsDReq =>
    refine deviceGood_of_whenEnabled h hg fun he => ?_
    obtain ⟨hp, -⟩ : s.dev.phase = .dAwait ∧ _ := by simpa [enabled, devSees] using he
    exact hg.takeRequest hp
  | hsDAck => exact deviceGood_of_whenEnabled h hg fun he => hg.acknowledge (by simpa [enabled] using he)
  | dsErase =>
    refine deviceGood_of_whenEnabled h hg fun he => ?_
    obtain ⟨hp, hea⟩ : s.dev.phase = .dErase ∧ s.dev.ea.toNat < Config.CAP := by simpa [enabled] using he
    exact hg.eraseNext hp hea
  | dsRxData b =>
    refine deviceGood_of_whenEnabled h hg fun he => ?_
    obtain ⟨⟨⟨hp, -⟩, hb⟩, hn⟩ : ((s.dev.phase = .dRecv ∧ _) ∧ b ≠ Config.TERM) ∧ s.dev.n.toNat < Config.CAP := by
      simpa [enabled, devSees] using he
    exact hg.store hp hn hb
  | dsRxTerm =>
    refine deviceGood_of_whenEnabled h hg fun he => ?_
    obtain ⟨⟨hp, -⟩, hn⟩ : (s.dev.phase = .dRecv ∧ _) ∧ 1 ≤ s.dev.n.toNat := by
      simpa only [enabled, devSees, Bool.and_eq_true, beq_iff_eq, decide_eq_true_eq] using he
    exact hg.closeWindow hp hn
  | dsRxOver b =>
    refine deviceGood_of_whenEnabled h hg fun he => ?_
    obtain ⟨⟨⟨hp, -⟩, -⟩, -⟩ : ((s.dev.phase = .dRecv ∧ _) ∧ _) ∧ _ := by simpa [enabled, devSees] using he
    exact hg.raise hp (by decide)
  | dsRxEmpty =>
    refine deviceGood_of_whenEnabled h hg fun he => ?_
    obtain ⟨⟨hp, -⟩, -⟩ : (s.dev.phase = .dRecv ∧ _) ∧ _ := by simpa [enabled, devSees] using he
    exact hg.raise hp (by decide)
  | dsVerify =>
    rcases execDsVerify_next h with rfl | ⟨w, hp, -, rfl⟩
    · exact hg
    · exact hg.verify hp _ _
  | dsCommit =>
    rcases execDsCommit_next h with rfl | ⟨q, hp, hq, rfl⟩
    · exact hg
    · exact hg.commit hp hq
  | dsRbByte =>
    rcases execDsRbByte_next h with rfl | ⟨b, hri, rfl⟩
    · exact hg
    · exact hg.readBack hri
  | dsRbTerm =>
    refine deviceGood_of_whenEnabled h hg fun he => ?_
    obtain ⟨hp, -⟩ : s.dev.phase = .dReadback ∧ _ := by simpa [enabled] using he
    exact hg.rearm hp
  | _ => exact Bool.noConfusion hi

theorem isFramed.good {g : HostInst} {h : HostInst} (hf : isFramed h g) (hg : HostGood h) (hp : h.phase = .hEncode)
    (hlen : h.payload.length ≤ Config.MAXPAY) : HostGood { g with phase := .hReq } := by
  have hready : frameReady h.phase = false := by rw [hp]; rfl
  have hencoded : HostGood (encodeInto h.payload h) := hg.after_encodeInto hready hlen
  have hbuilt : FrameBuilt (encodeInto h.payload h) := .of_encodeInto h hlen
  rcases hf with rfl | ⟨f, hlegal, hf, rfl⟩
  · exact hencoded.frame hp hbuilt
  · exact (hencoded.inject hlegal hf).frame hp (hbuilt.inject hf)

theorem exec_lsEncode_keeps_good (hg : HostGood s.host) (h : execLsEncode s = .next t) : HostGood t.host := by
  have hunsent (hp : s.host.phase = .hEncode) : frameUnsent s.host.phase = true := by rw [hp]; rfl
  rcases execLsEncode_next h with rfl | ⟨hp, rfl | ⟨hlen, rfl | ⟨g, hf, rfl⟩⟩⟩
  · exact hg
  · exact hg.raise_of_unsent (hunsent hp) (by decide)
  · exact (hg.after_encodeInto (by rw [hp]; rfl) hlen).raise_of_unsent (hunsent hp) (by decide)
  · exact hf.good hg hp hlen

/-- LS.LINKFAIL is enabled only in the phases of an attempt that uses the link (R229). -/
theorem phase_ne_hFailed_of_enabled_lsLinkfail (he : enabled .lsLinkfail s = true) : s.host.phase ≠ .hFailed :=
  fun hp => by simp [enabled, hp] at he

theorem exec_hostOp_keeps_good {i : Instr} (hg : HostGood s.host) (hi : isHostOp i = true ∨ isHostReaction i = true)
    (h : exec i s = .next t) : HostGood t.host := by
  cases i with
  | hsHReq => exact hostGood_of_whenEnabled h hg fun he => hg.request (by simpa [enabled] using he)
  | hsHAck =>
    refine hostGood_of_whenEnabled h hg fun he => ?_
    obtain ⟨hp, -⟩ : s.host.phase = .hAwait ∧ _ := by simpa [enabled, hostSees] using he
    exact hg.takeReply hp
  | hsHNak b =>
    refine hostGood_of_whenEnabled h hg fun he => ?_
    obtain ⟨⟨hp, -⟩, -⟩ : (s.host.phase = .hAwait ∧ _) ∧ _ := by simpa [enabled, hostSees] using he
    exact hg.raise_of_unsent (by rw [hp]; rfl) (by decide)
  | hsHTimeout =>
    refine hostGood_of_whenEnabled h hg fun he => ?_
    obtain ⟨hp, -⟩ : s.host.phase = .hAwait ∧ _ := by simpa [enabled] using he
    exact hg.raise_of_unsent (by rw [hp]; rfl) (by decide)
  | lsStart p mode offset value => exact hostGood_of_whenEnabled h hg fun _ => hg.start p mode offset value
  | lsEncode => exact exec_lsEncode_keeps_good hg h
  | lsTx =>
    rcases execLsTx_next h with rfl | ⟨b, hp, rfl⟩
    · exact hg
    · exact hg.send hp
  | lsRbData b =>
    refine hostGood_of_whenEnabled h hg fun he => ?_
    obtain ⟨⟨-, hb⟩, hn⟩ : (_ ∧ b ≠ Config.TERM) ∧ s.host.rn.toNat < Config.CAP := by
      simpa [enabled, hostSees] using he
    exact hg.collect hn hb
  | lsRbTerm =>
    refine hostGood_of_whenEnabled h hg fun he => ?_
    obtain ⟨hp, -⟩ : s.host.phase = .hReadback ∧ _ := by simpa [enabled, hostSees] using he
    exact hg.finish hp
  | lsRbOver b =>
    refine hostGood_of_whenEnabled h hg fun he => ?_
    obtain ⟨⟨⟨hp, -⟩, -⟩, -⟩ : ((s.host.phase = .hReadback ∧ _) ∧ _) ∧ _ := by simpa [enabled, hostSees] using he
    exact hg.raise_of_late (by simp [hp]) (by decide)
  | lsRbTimeout =>
    refine hostGood_of_whenEnabled h hg fun he => ?_
    obtain ⟨hp, -⟩ : s.host.phase = .hReadback ∧ _ := by simpa [enabled] using he
    exact hg.raise_of_late (by simp [hp]) (by decide)
  | lsLinkfail =>
    exact hostGood_of_whenEnabled h hg fun he =>
      hg.raise_of_late (phase_ne_hFailed_of_enabled_lsLinkfail he) (by decide)
  | _ => simp [isHostOp, isHostReaction] at hi

/-! ## A byte before a role -/

/-- Everything a byte before a role can do: what an operation of its sequencer does, or nothing (R102). -/
inductive TakesAsOp (p : Instr → Bool) (s : State) : Host.Outcome State Fault Refusal → Prop where
  | op {i : Instr} (h : p i = true) : TakesAsOp p s (exec i s)
  | left : TakesAsOp p s (.next s)

theorem deviceTakes_asOp (b : Byte) (s : State) : TakesAsOp isDeviceOp s (deviceTakes b s) := by
  unfold deviceTakes
  cases s.dev.phase with
  | dAwait =>
    dsimp only
    split_ifs
    · exact .op (i := .hsDReq) rfl
    · exact .op (i := .hsDSkip b) rfl
  | dRecv =>
    dsimp only
    split_ifs
    · exact .op (i := .dsRxEmpty) rfl
    · exact .op (i := .dsRxTerm) rfl
    · exact .op (i := .dsRxData b) rfl
    · exact .op (i := .dsRxOver b) rfl
  | _ => exact .left

theorem hostTakes_asOp (b : Byte) (s : State) : TakesAsOp isHostOp s (hostTakes b s) := by
  unfold hostTakes
  cases s.host.phase with
  | hAwait =>
    dsimp only
    split_ifs
    · exact .op (i := .hsHAck) rfl
    · exact .op (i := .hsHNak b) rfl
  | hReadback =>
    dsimp only
    split_ifs
    · exact .op (i := .lsRbTerm) rfl
    · exact .op (i := .lsRbData b) rfl
    · exact .op (i := .lsRbOver b) rfl
  | _ => exact .left

/-- What a byte before a role answers is what an operation of its sequencer answers, or the same state. -/
theorem TakesAsOp.next {p : Instr → Bool} {o : Host.Outcome State Fault Refusal} (ht : TakesAsOp p s o)
    (h : o = .next t) : t = s ∨ ∃ i, p i = true ∧ exec i s = .next t := by
  cases ht with
  | op hi => exact .inr ⟨_, hi, h⟩
  | left => exact .inl (Host.Outcome.next.inj h).symm

/-! ## Every operation, and every move, keeps a good state good -/

theorem Good.after_deviceOp {i : Instr} (hg : Good s) (hi : isDeviceOp i = true) (h : exec i s = .next t) : Good t :=
  ⟨exec_deviceOp_keeps_good hg.dev hi h, by rw [exec_deviceOp_host hi h]; exact hg.host⟩

theorem Good.after_hostOp {i : Instr} (hg : Good s) (hi : isHostOp i = true ∨ isHostReaction i = true)
    (h : exec i s = .next t) : Good t :=
  ⟨by rw [(exec_hostSequencer_deviceSideKept hi h).dev]; exact hg.dev, exec_hostOp_keeps_good hg.host hi h⟩

theorem Good.after_roleTakes {r : Role} {b : Byte} (hg : Good s) (h : roleTakes r b s = .next t) : Good t := by
  cases r with
  | device =>
    rcases (deviceTakes_asOp b s).next h with rfl | ⟨i, hi, hx⟩
    · exact hg
    · exact hg.after_deviceOp hi hx
  | host =>
    rcases (hostTakes_asOp b s).next h with rfl | ⟨i, hi, hx⟩
    · exact hg
    · exact hg.after_hostOp (.inl hi) hx

theorem Good.after_setAcc (hg : Good s) (r : Role) (v : Byte) : Good (setAcc r v s) := by
  cases r with
  | device => exact ⟨hg.dev.withAcc v, hg.host⟩
  | host => exact ⟨hg.dev, hg.host.withAcc v⟩

/-- The storage port is open before the erase pass and in `D_FAULT` only (R319, log 10). -/
theorem deviceRunning_eq_false :
    deviceRunning s = false ↔ s.dev.phase = .dFault ∨ s.dev.phase = .dErase ∧ s.dev.ea = 0 := by
  simp [deviceRunning, or_iff_not_imp_left]

theorem Good.after_nvChange (hg : Good s) (hr : deviceRunning s = false) (a : Cnt) (f : NvCell → NvCell) (r : Reply) :
    Good (setReply r (setDev (nvChange a f s.dev) s)) :=
  ⟨hg.dev.after_nvChange (deviceRunning_eq_false.mp hr) a f, hg.host⟩

/-- FC.ENCODE and FI.APPLY are open to the bench where no frame is in use (R319, log 10). -/
theorem hostRunning_eq_false :
    hostRunning s = false ↔ s.host.phase = .hIdle ∨ s.host.phase = .hDone ∨ s.host.phase = .hFailed := by
  simp only [hostRunning, Bool.not_eq_false', Bool.or_eq_true, beq_iff_eq, or_assoc]

theorem frameReady_of_not_hostRunning (hr : hostRunning s = false) : frameReady s.host.phase = false := by
  rcases hostRunning_eq_false.mp hr with hp | hp | hp <;> rw [hp] <;> rfl

/-- FI.APPLY raises at `TI` = 0 and not on top of a failure (R268, R269, log 14). -/
theorem Good.after_fiApply {mode : BitVec 2} {offset : Cnt} {value : Byte} (hg : Good s)
    (h : execFiApply mode offset value s = .next t) : Good t := by
  rcases execFiApply_next h with rfl | ⟨f, hlegal, hf, rfl⟩ | ⟨hraise, rfl⟩
  · exact hg
  · exact ⟨hg.dev, hg.host.inject hlegal hf⟩
  · obtain ⟨hp, hti⟩ : s.host.phase ≠ .hFailed ∧ s.host.ti = 0 := by simpa [fiMayRaise] using hraise
    exact ⟨hg.dev, hg.host.raise hp (by decide) fun _ => hti⟩

theorem Good.after_fcEncode {p : List Byte} (hg : Good s) (hr : hostRunning s = false) (h : execFcEncode p s = .next t) :
    Good t := by
  obtain ⟨hp, rfl⟩ := execFcEncode_next h
  exact ⟨hg.dev, hg.host.after_encodeInto (frameReady_of_not_hostRunning hr) hp⟩

/-- Every operation that the port does not bar keeps a good state good. -/
theorem Good.after_exec {i : Instr} (hg : Good s) (hb : portBars i s = false) (h : exec i s = .next t) : Good t := by
  cases i with
  | crcClr r | crcByte r | crcBit r =>
    obtain rfl := Host.Outcome.next.inj h
    exact hg.after_setAcc r _
  | nvRead a =>
    obtain rfl := Host.Outcome.next.inj h
    exact ⟨hg.dev.after_nvReadEffect a, hg.host⟩
  | nvWrite a | nvErase a | nvErwr a =>
    obtain rfl := Host.Outcome.next.inj h
    exact hg.after_nvChange hb a _ _
  | fcEncode p => exact hg.after_fcEncode hb h
  | fcClassify b =>
    obtain rfl := Host.Outcome.next.inj h
    exact ⟨hg.dev, hg.host⟩
  | fiApply mode offset value => exact hg.after_fiApply h
  | ivVerify w =>
    obtain rfl := Host.Outcome.next.inj h
    exact ⟨hg.dev.withAcc _, hg.host⟩
  | reset r =>
    cases r with
    | device =>
      obtain rfl := Host.Outcome.next.inj h
      exact ⟨.reset (NvMem.wf_nvForgetTags hg.dev.nvForm), hg.host⟩
    | host =>
      obtain rfl := Host.Outcome.next.inj h
      exact ⟨hg.dev, .reset⟩
  | tokReq | tokAck | term => exact hg.after_roleTakes h
  | hsDArm | hsDSkip | hsDReq | hsDAck | dsErase | dsRxData | dsRxTerm | dsRxOver | dsRxEmpty | dsVerify | dsCommit
  | dsRbByte | dsRbTerm => exact hg.after_deviceOp rfl h
  | hsHReq | hsHAck | hsHNak | lsEncode | lsTx | lsRbData | lsRbTerm | lsRbOver => exact hg.after_hostOp (.inl rfl) h
  | hsHTimeout | lsStart | lsRbTimeout | lsLinkfail => exact hg.after_hostOp (.inr rfl) h

theorem Good.after_rejected {r : Reject} (hg : Good s) (h : rejected r s = .next t) : Good t := by
  cases r with
  | noneEnabled | cecReserved | wordTooWide =>
    obtain rfl := Host.Outcome.next.inj h
    exact hg
  | plainByte r b => exact hg.after_roleTakes h
  | payloadTooLong => cases h

theorem Good.after_linkAct (hg : Good s) (a : LinkAct) : Good (linkAct a s) := by
  unfold linkAct
  split
  · exact ⟨hg.dev, hg.host⟩
  · exact ⟨hg.dev, hg.host⟩

theorem Good.after_unfetched (hg : Good s) (m : Move) : Good (unfetched m s) := by
  cases m with
  | link a => exact hg.after_linkAct a
  | powerCycle => exact ⟨.reset (NvMem.wf_nvForgetTags hg.dev.nvForm), .reset⟩
  | _ => exact hg

/-! ## What the moves fetch -/

/-- A decoder's answer that is an operation is one of the kind it reads. -/
theorem ReadsOp.of_ok {p : Instr → Bool} {d : Except Reject Instr} {i : Instr} (hr : ReadsOp p d) (hd : d = .ok i) :
    p i = true := by
  subst hd
  cases hr with
  | op h => exact h

/-- The port bars unit operations only (R319). -/
theorem portBars_of_sequencer {i : Instr} (hi : isDeviceOp i = true ∨ isHostOp i = true ∨ isHostReaction i = true)
    (s : State) : portBars i s = false := by
  cases i with
  | nvRead | nvWrite | nvErase | nvErwr | fcEncode | fiApply =>
    simp [isDeviceOp, isHostOp, isHostReaction] at hi
  | _ => rfl

/-- What a move may run, the port would not bar either: the sequencers and the environment run no unit operation. -/
theorem portBars_of_not_barred {m : Move} {e : Encoding} {i : Instr} (hf : fetched m s = some e)
    (hd : decode e = .ok i) (hb : barred m i s = false) : portBars i s = false := by
  cases m with
  | turn r =>
    cases r with
    | device =>
      obtain rfl := Option.some.inj hf
      exact portBars_of_sequencer (.inl ((decodeDev_readsOp (devWord s)).of_ok hd)) s
    | host =>
      obtain rfl := Option.some.inj hf
      exact portBars_of_sequencer (.inr (.inl ((decodeHostTurn_readsOp _ s.host.rn s.d2h.head?).of_ok hd))) s
  | event ev =>
    cases ev with
    | reset r =>
      obtain rfl := Option.some.inj hf
      obtain rfl := Except.ok.inj hd
      rfl
    | host ev =>
      obtain rfl := Option.some.inj hf
      exact portBars_of_sequencer (.inr (.inr ((decodeHostEvent_readsOp _ s.d2h.head? ev).of_ok hd))) s
  | bench e => exact hb
  | link | powerCycle => cases hf

/-- Everything a move can do: what fetches nothing, an operation that is not barred, or a reject. -/
theorem makeMove_next {m : Move} (h : makeMove m s = .next t) :
    (fetched m s = none ∧ t = unfetched m s) ∨
      (∃ e i, fetched m s = some e ∧ decode e = .ok i ∧ barred m i s = false ∧ exec i s = .next t) ∨
      ∃ e r, fetched m s = some e ∧ decode e = .error r ∧ rejected r s = .next t := by
  cases hf : fetched m s with
  | none =>
    rw [makeMove, hf] at h
    exact .inl ⟨rfl, (Host.Outcome.next.inj h).symm⟩
  | some e =>
    cases hd : decode e with
    | ok i =>
      cases hb : barred m i s with
      | false =>
        rw [makeMove_of_decode_ok hf hd hb] at h
        exact .inr (.inl ⟨e, i, rfl, hd, hb, h⟩)
      | true =>
        rw [makeMove_of_barred hf hd hb] at h
        cases h
    | error r =>
      rw [makeMove_of_decode_error hf hd] at h
      exact .inr (.inr ⟨e, r, rfl, hd, h⟩)

theorem Good.after_makeMove {m : Move} (hg : Good s) (h : makeMove m s = .next t) : Good t := by
  rcases makeMove_next h with ⟨-, rfl⟩ | ⟨e, i, hf, hd, hb, hx⟩ | ⟨e, r, -, -, hr⟩
  · exact hg.after_unfetched m
  · exact hg.after_exec (portBars_of_not_barred hf hd hb) hx
  · exact hg.after_rejected hr

theorem Good.after_beginMove (hg : Good s) : Good (beginMove s) :=
  ⟨by rw [beginMove_dev]; exact hg.dev, by rw [beginMove_host]; exact hg.host⟩

/-- The power-on state is good (R49, R301). -/
theorem Good.reset : Good State.reset :=
  ⟨DeviceGood.reset ⟨List.Pairwise.nil, fun _ he => absurd he List.not_mem_nil, fun _ he => absurd he List.not_mem_nil⟩,
    .reset⟩

end Sys2Proof.Machine

/-! SUPPORT. A sequencer parked after a failure (R32, R266 to R268), and the bits of the two status views. -/

namespace Sys2Proof.Machine

variable {s t : State}

/-! ## Fault registers that the unit operations leave alone -/

@[simp] theorem nvReadEffect_phase (a : Cnt) (d : DeviceInst) : (nvReadEffect a d).phase = d.phase := by
  unfold nvReadEffect
  split <;> rfl

@[simp] theorem nvReadEffect_dfault (a : Cnt) (d : DeviceInst) : (nvReadEffect a d).dfault = d.dfault := by
  unfold nvReadEffect
  split <;> rfl

@[simp] theorem setAcc_dev_phase (r : Role) (v : Byte) (s : State) : (setAcc r v s).dev.phase = s.dev.phase := by
  cases r <;> rfl

@[simp] theorem setAcc_dev_dfault (r : Role) (v : Byte) (s : State) : (setAcc r v s).dev.dfault = s.dev.dfault := by
  cases r <;> rfl

@[simp] theorem setAcc_host_phase (r : Role) (v : Byte) (s : State) : (setAcc r v s).host.phase = s.host.phase := by
  cases r <;> rfl

@[simp] theorem setAcc_host_hfault (r : Role) (v : Byte) (s : State) : (setAcc r v s).host.hfault = s.host.hfault := by
  cases r <;> rfl

/-! ## Nothing is enabled in `D_FAULT`, and nothing but LS.START in `H_FAILED` -/

theorem enabled_deviceOp_of_dFault {i : Instr} (hp : s.dev.phase = .dFault) (hi : isDeviceOp i = true) :
    enabled i s = false := by
  cases i with
  | hsDArm | hsDSkip | hsDReq | hsDAck | dsErase | dsRxData | dsRxTerm | dsRxOver | dsRxEmpty | dsVerify | dsCommit
  | dsRbByte | dsRbTerm => simp [enabled, devSees, hp]
  | _ => exact Bool.noConfusion hi

theorem enabled_hostOp_of_hFailed {i : Instr} (hp : s.host.phase = .hFailed) (hi : isHostOp i = true) :
    enabled i s = false := by
  cases i with
  | hsHReq | hsHAck | hsHNak | lsEncode | lsTx | lsRbData | lsRbTerm | lsRbOver => simp [enabled, hostSees, hp]
  | _ => exact Bool.noConfusion hi

theorem eq_of_exec_of_not_enabled {i : Instr} (he : enabled i s = false) (h : exec i s = .next t) : t = s := by
  rw [exec_of_not_enabled he] at h
  exact (Host.Outcome.next.inj h).symm

/-! ## Failures do not nest (R268) -/

theorem deviceTakes_eq_of_dFault {b : Byte} (hp : s.dev.phase = .dFault) (h : deviceTakes b s = .next t) : t = s := by
  rcases (deviceTakes_asOp b s).next h with hsame | ⟨i, hi, hx⟩
  · exact hsame
  · exact eq_of_exec_of_not_enabled (enabled_deviceOp_of_dFault hp hi) hx

theorem hostTakes_eq_of_hFailed {b : Byte} (hp : s.host.phase = .hFailed) (h : hostTakes b s = .next t) : t = s := by
  rcases (hostTakes_asOp b s).next h with hsame | ⟨i, hi, hx⟩
  · exact hsame
  · exact eq_of_exec_of_not_enabled (enabled_hostOp_of_hFailed hp hi) hx

theorem hostTakes_deviceSideKept {b : Byte} (h : hostTakes b s = .next t) : DeviceSideKept s t := by
  rcases (hostTakes_asOp b s).next h with rfl | ⟨i, hi, hx⟩
  · exact .refl t
  · exact exec_hostSequencer_deviceSideKept (.inl hi) hx

theorem deviceTakes_host {b : Byte} (h : deviceTakes b s = .next t) : t.host = s.host := by
  rcases (deviceTakes_asOp b s).next h with rfl | ⟨i, hi, hx⟩
  · rfl
  · exact exec_deviceOp_host hi hx

theorem roleTakes_dev_of_dFault {r : Role} {b : Byte} (hp : s.dev.phase = .dFault) (h : roleTakes r b s = .next t) :
    t.dev = s.dev := by
  cases r with
  | device => rw [deviceTakes_eq_of_dFault hp h]
  | host => exact (hostTakes_deviceSideKept h).dev

theorem roleTakes_host_of_hFailed {r : Role} {b : Byte} (hp : s.host.phase = .hFailed)
    (h : roleTakes r b s = .next t) : t.host = s.host := by
  cases r with
  | device => exact deviceTakes_host h
  | host => rw [hostTakes_eq_of_hFailed hp h]

/-- No operation but RESET replaces the fault code of a device in `D_FAULT`, nor takes it out (R266, R268). -/
theorem exec_keeps_dFault {i : Instr} (hp : s.dev.phase = .dFault) (hi : i ≠ .reset .device)
    (h : exec i s = .next t) : t.dev.phase = .dFault ∧ t.dev.dfault = s.dev.dfault := by
  have of_dev (hd : t.dev = s.dev) : t.dev.phase = .dFault ∧ t.dev.dfault = s.dev.dfault := by
    rw [hd]
    exact ⟨hp, rfl⟩
  cases i with
  | crcClr | crcByte | crcBit | nvRead =>
    obtain rfl := Host.Outcome.next.inj h
    simp [hp]
  | nvWrite | nvErase | nvErwr =>
    obtain rfl := Host.Outcome.next.inj h
    simp [nvWriteByte_eq, nvEraseCell_eq, nvEraseWrite_eq, hp]
  | fcEncode p =>
    obtain ⟨-, rfl⟩ := execFcEncode_next h
    exact of_dev rfl
  | fcClassify =>
    obtain rfl := Host.Outcome.next.inj h
    exact of_dev rfl
  | fiApply => rcases execFiApply_next h with rfl | ⟨f, -, -, rfl⟩ | ⟨-, rfl⟩ <;> exact of_dev rfl
  | ivVerify =>
    obtain rfl := Host.Outcome.next.inj h
    exact ⟨hp, rfl⟩
  | reset r =>
    cases r with
    | device => exact absurd rfl hi
    | host => exact of_dev (by rw [← Host.Outcome.next.inj h, resetHost_dev])
  | tokReq | tokAck | term => exact of_dev (roleTakes_dev_of_dFault hp h)
  | hsDArm | hsDSkip | hsDReq | hsDAck | dsErase | dsRxData | dsRxTerm | dsRxOver | dsRxEmpty | dsVerify | dsCommit
  | dsRbByte | dsRbTerm =>
    exact of_dev (by rw [eq_of_exec_of_not_enabled (enabled_deviceOp_of_dFault hp rfl) h])
  | hsHReq | hsHAck | hsHNak | lsEncode | lsTx | lsRbData | lsRbTerm | lsRbOver =>
    exact of_dev (exec_hostSequencer_deviceSideKept (.inl rfl) h).dev
  | hsHTimeout | lsStart | lsRbTimeout | lsLinkfail =>
    exact of_dev (exec_hostSequencer_deviceSideKept (.inr rfl) h).dev

/-- No operation but RESET and LS.START replaces the failure code of a host in `H_FAILED`, nor takes it out (R267,
R268). -/
theorem exec_keeps_hFailed {i : Instr} (hp : s.host.phase = .hFailed) (hi : i ≠ .reset .host)
    (hstart : ∀ p m o v, i ≠ .lsStart p m o v) (h : exec i s = .next t) :
    t.host.phase = .hFailed ∧ t.host.hfault = s.host.hfault := by
  have of_host (hd : t.host = s.host) : t.host.phase = .hFailed ∧ t.host.hfault = s.host.hfault := by
    rw [hd]
    exact ⟨hp, rfl⟩
  cases i with
  | crcClr | crcByte | crcBit =>
    obtain rfl := Host.Outcome.next.inj h
    simp [hp]
  | nvRead | nvWrite | nvErase | nvErwr | fcClassify | ivVerify =>
    obtain rfl := Host.Outcome.next.inj h
    exact of_host rfl
  | fcEncode p =>
    obtain ⟨-, rfl⟩ := execFcEncode_next h
    exact ⟨hp, rfl⟩
  | fiApply =>
    rcases execFiApply_next h with rfl | ⟨f, -, -, rfl⟩ | ⟨hraise, -⟩
    · exact of_host rfl
    · exact ⟨hp, rfl⟩
    · simp [fiMayRaise, hp] at hraise
  | reset r =>
    cases r with
    | device => exact of_host (by rw [← Host.Outcome.next.inj h, resetDevice_host])
    | host => exact absurd rfl hi
  | tokReq | tokAck | term => exact of_host (roleTakes_host_of_hFailed hp h)
  | hsDArm | hsDSkip | hsDReq | hsDAck | dsErase | dsRxData | dsRxTerm | dsRxOver | dsRxEmpty | dsVerify | dsCommit
  | dsRbByte | dsRbTerm => exact of_host (exec_deviceOp_host rfl h)
  | hsHReq | hsHAck | hsHNak | lsEncode | lsTx | lsRbData | lsRbTerm | lsRbOver =>
    exact of_host (by rw [eq_of_exec_of_not_enabled (enabled_hostOp_of_hFailed hp rfl) h])
  | hsHTimeout | lsRbTimeout | lsLinkfail =>
    exact of_host (by rw [eq_of_exec_of_not_enabled (by simp [enabled, hp]) h])
  | lsStart p m o v => exact absurd rfl (hstart p m o v)

/-! ## The moves of the sequencers and of the environment -/

/-- Everything a move can do whose encoding reads as an operation of one kind or as nothing enabled. -/
theorem makeMove_next_of_readsOp {m : Move} {e : Encoding} {p : Instr → Bool} (hf : fetched m s = some e)
    (hd : ReadsOp p (decode e)) (h : makeMove m s = .next t) : t = s ∨ ∃ i, p i = true ∧ exec i s = .next t := by
  rcases makeMove_next h with ⟨hnone, -⟩ | ⟨e', i, hf', hi, -, hx⟩ | ⟨e', r, hf', hr, hx⟩
  · simp [hf] at hnone
  · obtain rfl := Option.some.inj (hf.symm.trans hf')
    exact .inr ⟨i, hd.of_ok hi, hx⟩
  · obtain rfl := Option.some.inj (hf.symm.trans hf')
    rw [hr] at hd
    cases hd
    exact .inl (Host.Outcome.next.inj hx).symm

theorem turn_device_next (h : makeMove (.turn .device) s = .next t) :
    t = s ∨ ∃ i, isDeviceOp i = true ∧ exec i s = .next t :=
  makeMove_next_of_readsOp (e := .dev (devWord s)) rfl (decodeDev_readsOp (devWord s)) h

theorem turn_host_next (h : makeMove (.turn .host) s = .next t) :
    t = s ∨ ∃ i, isHostOp i = true ∧ exec i s = .next t :=
  makeMove_next_of_readsOp (e := .host (hostWord none s)) rfl (decodeHostTurn_readsOp _ _ _) h

theorem event_host_next {e : HostEvent} (h : makeMove (.event (.host e)) s = .next t) :
    t = s ∨ ∃ i, isHostReaction i = true ∧ exec i s = .next t :=
  makeMove_next_of_readsOp (e := .host (hostWord (some e) s)) rfl (decodeHostEvent_readsOp _ _ e) h

/-- In `H_FAILED` every event but a start is lost (R230, R262). -/
theorem decodeHostEvent_hFailed {e : HostEvent} (head : Option Byte) (he : ∀ p f, e ≠ .start p f) :
    decodeHostEvent .hFailed head e = .error .noneEnabled := by
  cases e with
  | start p f => exact absurd rfl (he p f)
  | timeout | linkfail => simp [decodeHostEvent]

theorem event_host_eq_of_hFailed {e : HostEvent} (hp : s.host.phase = .hFailed) (he : ∀ p f, e ≠ .start p f)
    (h : makeMove (.event (.host e)) s = .next t) : t = s := by
  have hlost : decode (.host (hostWord (some e) s)) = .error .noneEnabled := by
    simpa [decode, decodeHost, hostWord, hp] using decodeHostEvent_hFailed s.d2h.head? he
  rw [makeMove_of_decode_error rfl hlost] at h
  exact (Host.Outcome.next.inj h).symm

/-- A faulted device takes nothing and changes in nothing through every turn and event but its RESET (R266). -/
theorem ordinary_deviceSideKept_of_dFault {m : Move} (hp : s.dev.phase = .dFault) (hm : isOrdinary m = true)
    (hreset : m ≠ .event (.reset .device)) (h : makeMove m s = .next t) : DeviceSideKept s t := by
  cases m with
  | turn r =>
    cases r with
    | device =>
      rcases turn_device_next h with rfl | ⟨i, hi, hx⟩
      · exact .refl t
      · obtain rfl := eq_of_exec_of_not_enabled (enabled_deviceOp_of_dFault hp hi) hx
        exact .refl t
    | host =>
      rcases turn_host_next h with rfl | ⟨i, hi, hx⟩
      · exact .refl t
      · exact exec_hostSequencer_deviceSideKept (.inl hi) hx
  | event e =>
    cases e with
    | reset r =>
      cases r with
      | device => exact absurd rfl hreset
      | host =>
        obtain rfl := Host.Outcome.next.inj h
        exact .of_eq rfl rfl
    | host e =>
      rcases event_host_next h with rfl | ⟨i, hi, hx⟩
      · exact .refl t
      · exact exec_hostSequencer_deviceSideKept (.inr hi) hx
  | _ => exact Bool.noConfusion hm

/-- A failed host changes in nothing through every turn and event but a start and its RESET (R267, R268). -/
theorem ordinary_host_of_hFailed {m : Move} (hp : s.host.phase = .hFailed) (hm : isOrdinary m = true)
    (hreset : m ≠ .event (.reset .host)) (hstart : ∀ p f, m ≠ .event (.host (.start p f)))
    (h : makeMove m s = .next t) : t.host = s.host := by
  cases m with
  | turn r =>
    cases r with
    | device =>
      rcases turn_device_next h with rfl | ⟨i, hi, hx⟩
      · rfl
      · exact exec_deviceOp_host hi hx
    | host =>
      rcases turn_host_next h with rfl | ⟨i, hi, hx⟩
      · rfl
      · rw [eq_of_exec_of_not_enabled (enabled_hostOp_of_hFailed hp hi) hx]
  | event e =>
    cases e with
    | reset r =>
      cases r with
      | device =>
        obtain rfl := Host.Outcome.next.inj h
        rfl
      | host => exact absurd rfl hreset
    | host e => rw [event_host_eq_of_hFailed hp (fun p f he => hstart p f (he ▸ rfl)) h]
  | _ => exact Bool.noConfusion hm

/-! ## The bits of the status views -/

section StatusWord

variable {k : Nat} (top : BitVec k) (hs : BitVec 2) (phase : BitVec 3)

/-- A status word: the phase in [2:0], the handshake state in [4:3], flags above (R34, R45). -/
theorem statusWord_phase : (top ++ hs ++ phase).extractLsb' 0 3 = phase := BitVec.extractLsb'_append_eq_right

theorem statusWord_hs : (top ++ hs ++ phase).extractLsb' 3 2 = hs := by
  rw [BitVec.extractLsb'_append_eq_of_le (Nat.le_refl 3)]
  exact BitVec.extractLsb'_append_eq_right

theorem statusWord_flags (i n : Nat) : (top ++ hs ++ phase).extractLsb' (5 + i) n = top.extractLsb' i n := by
  rw [BitVec.extractLsb'_append_eq_of_le (by omega), BitVec.extractLsb'_append_eq_of_le (by omega)]
  congr 1
  omega

theorem statusWord_flag (i : Nat) : (top ++ hs ++ phase).getLsbD (5 + i) = top.getLsbD i := by
  rw [BitVec.getLsbD_append, if_neg (by omega), BitVec.getLsbD_append, if_neg (by omega)]
  congr 1
  omega

end StatusWord

/-- The three flags of `DSTATUS` (R34). -/
theorem flagBits (b7 b6 b5 : Bool) :
    (BitVec.ofBool b7 ++ BitVec.ofBool b6 ++ BitVec.ofBool b5).getLsbD 0 = b5 ∧
      (BitVec.ofBool b7 ++ BitVec.ofBool b6 ++ BitVec.ofBool b5).getLsbD 1 = b6 ∧
      (BitVec.ofBool b7 ++ BitVec.ofBool b6 ++ BitVec.ofBool b5).getLsbD 2 = b7 := by
  revert b7 b6 b5
  decide

/-- The one flag of `HSTATUS` (R45). -/
theorem flagBit (b7 : Bool) : (BitVec.ofBool b7 ++ (0 : BitVec 2)).getLsbD 2 = b7 := by
  revert b7
  decide

theorem dstatus_bit7 (s : State) : (dstatus s).getLsbD 7 = (s.dev.dfault != 0 || s.dev.nvfault) := by
  obtain ⟨-, -, hfaulted⟩ := flagBits (s.dev.dfault != 0 || s.dev.nvfault) s.dev.vok s.dev.vdone
  exact (statusWord_flag _ _ _ 2).trans hfaulted

theorem hstatus_bit7 (s : State) : (hstatus s).getLsbD 7 = (s.host.hfault != 0) :=
  (statusWord_flag _ _ _ 2).trans (flagBit _)

end Sys2Proof.Machine

namespace Sys2Proof.Proofs

open Sys2Proof Sys2Proof.Machine

/-- Settles O50: the state before the move is good, and every operation that a move may run, every reject and every move
of the link and of the power switch keeps it so. -/
theorem stepKeepsGood : Obligations.StepKeepsGood :=
  fun _ _ hg h => hg.after_beginMove.after_makeMove h

/-- Settles O53: nothing is enabled in `D_FAULT`, and nothing but LS.START in `H_FAILED`. -/
theorem faultsAreLeftOnlyAsSaid : Obligations.FaultsAreLeftOnlyAsSaid := by
  refine ⟨fun m s t hm h => ⟨fun hp hreset => ?_, fun hp hreset hstart => ?_⟩,
    fun i s t h => ⟨fun hp hi => exec_keeps_dFault hp hi h, fun hp hi hstart => exec_keeps_hFailed hp hi hstart h⟩⟩
  · obtain ⟨hdev, hh2d⟩ := ordinary_deviceSideKept_of_dFault hp hm hreset h
    exact ⟨hdev, hh2d⟩
  · exact ordinary_host_of_hFailed hp hm hreset hstart h

/-- Settles O39, register by register of R47's list. -/
theorem powerOnState : Obligations.PowerOnState := by
  refine ⟨rfl, rfl, rfl, rfl, fun a => ⟨rfl, rfl⟩, fun k hlo hhi => ?_⟩
  interval_cases k <;> rfl

/-- Settles O48, by the layout that both status words share. -/
theorem statusViewBits : Obligations.StatusViewBits := by
  intro s
  obtain ⟨hvdone, hvok, -⟩ := flagBits (s.dev.dfault != 0 || s.dev.nvfault) s.dev.vok s.dev.vdone
  refine ⟨statusWord_phase _ _ _, statusWord_hs _ _ _, (statusWord_flag _ _ _ 0).trans hvdone,
    (statusWord_flag _ _ _ 1).trans hvok, ?_, statusWord_phase _ _ _, statusWord_hs _ _ _,
    (statusWord_flags _ _ _ 0 2).trans BitVec.extractLsb'_append_eq_right, ?_⟩
  · rw [dstatus_bit7, Bool.or_eq_true, bne_iff_ne]
  · rw [hstatus_bit7, bne_iff_ne]

/-- Settles O49. -/
theorem powerOnIsGood : Obligations.PowerOnIsGood := Good.reset

end Sys2Proof.Proofs

/-! SUPPORT. The device's turns, and its session turn by turn: a window received, closed, verified, committed and sent
back (44_link_session.md section 1, R210). -/

namespace Sys2Proof.Machine

variable {s : State} {d : DeviceInst}

/-! ## A turn is the transition that is enabled -/

/-- The device's `SEQ` word reads as the transition that is enabled (R109). -/
theorem decodeDev_devWord_of_enabled {i : Instr} (hi : isDeviceOp i = true) (he : enabled i s = true) :
    decodeDev (devWord s) = .ok i := by
  cases i with
  | hsDArm =>
    obtain ⟨hp, hea⟩ : s.dev.phase = .dErase ∧ s.dev.ea.toNat = Config.CAP := by simpa [enabled] using he
    simp [decodeDev, devWord, hp, hea]
  | dsErase =>
    obtain ⟨hp, hea⟩ : s.dev.phase = .dErase ∧ s.dev.ea.toNat < Config.CAP := by simpa [enabled] using he
    simp [decodeDev, devWord, hp, hea]
  | hsDSkip b =>
    obtain ⟨⟨hp, hhead⟩, hb⟩ : (s.dev.phase = .dAwait ∧ s.h2d.head? = some b) ∧ b ≠ Config.TOK_REQ := by
      simpa [enabled, devSees] using he
    simp [decodeDev, devWord, decodeAwait, hp, hhead, hb]
  | hsDReq =>
    obtain ⟨hp, hhead⟩ : s.dev.phase = .dAwait ∧ s.h2d.head? = some Config.TOK_REQ := by
      simpa [enabled, devSees] using he
    simp [decodeDev, devWord, decodeAwait, hp, hhead]
  | dsRxData b =>
    obtain ⟨⟨⟨hp, hhead⟩, hb⟩, hn⟩ :
        ((s.dev.phase = .dRecv ∧ s.h2d.head? = some b) ∧ b ≠ Config.TERM) ∧ s.dev.n.toNat < Config.CAP := by
      simpa [enabled, devSees] using he
    simp [decodeDev, devWord, decodeRecv, hp, hhead, hb, hn]
  | dsRxOver b =>
    obtain ⟨⟨⟨hp, hhead⟩, hb⟩, hn⟩ :
        ((s.dev.phase = .dRecv ∧ s.h2d.head? = some b) ∧ b ≠ Config.TERM) ∧ s.dev.n.toNat = Config.CAP := by
      simpa [enabled, devSees] using he
    simp [decodeDev, devWord, decodeRecv, hp, hhead, hb, hn]
  | dsRxTerm =>
    obtain ⟨⟨hp, hhead⟩, hn⟩ : (s.dev.phase = .dRecv ∧ s.h2d.head? = some Config.TERM) ∧ 1 ≤ s.dev.n.toNat := by
      simpa only [enabled, devSees, Bool.and_eq_true, beq_iff_eq, decide_eq_true_eq] using he
    have hn0 : s.dev.n.toNat ≠ 0 := by omega
    simp only [decodeDev, devWord, DPhase.ofCode_code, hp, decodeRecv, hhead, if_true, if_neg hn0]
  | dsRxEmpty =>
    obtain ⟨⟨hp, hhead⟩, hn⟩ : (s.dev.phase = .dRecv ∧ s.h2d.head? = some Config.TERM) ∧ s.dev.n.toNat = 0 := by
      simpa only [enabled, devSees, Bool.and_eq_true, beq_iff_eq, decide_eq_true_eq] using he
    simp only [decodeDev, devWord, DPhase.ofCode_code, hp, decodeRecv, hhead, if_true, if_pos hn]
  | dsRbByte =>
    obtain ⟨hp, hri⟩ : s.dev.phase = .dReadback ∧ s.dev.ri.toNat ≤ s.dev.size.toNat := by simpa [enabled] using he
    simp [decodeDev, devWord, hp, hri]
  | dsRbTerm =>
    obtain ⟨hp, hri⟩ : s.dev.phase = .dReadback ∧ s.dev.ri.toNat = s.dev.size.toNat + 1 := by simpa [enabled] using he
    simp [decodeDev, devWord, hp, hri]
  | hsDAck | dsVerify | dsCommit =>
    have hp := eq_of_beq he
    simp [decodeDev, devWord, hp]
  | _ => exact Bool.noConfusion hi

theorem turn_device_of_enabled {i : Instr} (hi : isDeviceOp i = true) (he : enabled i s = true) :
    makeMove (.turn .device) s = exec i s :=
  makeMove_of_decode_ok rfl (decodeDev_devWord_of_enabled hi he) rfl

/-! ## The turns of a session -/

/-- The device after DS.RX.DATA (R212). -/
def storedByte (b : Byte) (d : DeviceInst) : DeviceInst :=
  { nvWriteByte d.n b d with buf := tabSet d.buf d.n.toNat b, n := d.n + 1 }

/-- The device after DS.RX.TERM (R213). -/
def closedWindow (d : DeviceInst) : DeviceInst := { d with size := d.n - 1, phase := .dVerify }

/-- The device after DS.VERIFY of the window `w` (R216). -/
def verifiedWindow (w : List Byte) (d : DeviceInst) : DeviceInst :=
  { d with acc := checksum w, vok := vokOf (verdictOf (checksum w)), vdone := true, phase := .dCommit }

/-- The device after DS.COMMIT of the payload `q` (R217). -/
def committedPayload (q : List Byte) (d : DeviceInst) : DeviceInst :=
  { nvEraseWrite d.size (checksum q) d with acc := checksum q, csum := checksum q, ri := 0, phase := .dReadback }

theorem turn_device_rxData {b : Byte} {rest : List Byte} (hp : s.dev.phase = .dRecv) (hc : s.h2d = b :: rest)
    (hb : b ≠ Config.TERM) (hn : s.dev.n.toNat < Config.CAP) :
    makeMove (.turn .device) s = .next { s with dev := storedByte b s.dev, h2d := rest } := by
  have he : enabled (.dsRxData b) s = true := by simp [enabled, devSees, hp, hc, hb, hn]
  refine (turn_device_of_enabled rfl he).trans ((whenEnabled_of_enabled _ he).trans ?_)
  simp [rxH2D, setDev, storedByte, hc]

theorem turn_device_rxTerm {rest : List Byte} (hp : s.dev.phase = .dRecv) (hc : s.h2d = Config.TERM :: rest)
    (hn : 1 ≤ s.dev.n.toNat) :
    makeMove (.turn .device) s = .next { s with dev := closedWindow s.dev, h2d := rest } := by
  have he : enabled .dsRxTerm s = true := by
    simp only [enabled, devSees, hp, hc, List.head?_cons, beq_self_eq_true, Bool.and_self, decide_eq_true hn]
  refine (turn_device_of_enabled rfl he).trans ((whenEnabled_of_enabled _ he).trans ?_)
  simp [rxH2D, setDev, closedWindow, hc]

theorem turn_device_verify {w : List Byte} (hp : s.dev.phase = .dVerify) (hw : rxWindow s.dev = some w) :
    makeMove (.turn .device) s =
      .next { s with dev := verifiedWindow w s.dev, diag := diagOf (verdictOf (checksum w)) } := by
  have he : enabled .dsVerify s = true := by simp [enabled, hp]
  refine (turn_device_of_enabled rfl he).trans ((whenEnabled_of_enabled _ he).trans ?_)
  simp [verifiedWindow, hw]

theorem turn_device_commit {q : List Byte} (hp : s.dev.phase = .dCommit) (hq : rxPayload s.dev = some q) :
    makeMove (.turn .device) s = .next { s with dev := committedPayload q s.dev } := by
  have he : enabled .dsCommit s = true := by simp [enabled, hp]
  refine (turn_device_of_enabled rfl he).trans ((whenEnabled_of_enabled _ he).trans ?_)
  simp [committedPayload, setDev, hq]

theorem turn_device_rbByte (hp : s.dev.phase = .dReadback) (hri : s.dev.ri.toNat ≤ s.dev.size.toNat)
    (hsize : s.dev.size.toNat < Config.CAP) :
    makeMove (.turn .device) s = .next { s with
      dev := { s.dev with ri := s.dev.ri + 1 }
      d2h := s.d2h ++ [nvVal s.dev.nv s.dev.ri.toNat] } := by
  have he : enabled .dsRbByte s = true := by simp [enabled, hp, hri]
  refine (turn_device_of_enabled rfl he).trans ((whenEnabled_of_enabled _ he).trans ?_)
  rw [nvReadByte_of_lt s.dev (hri.trans_lt hsize)]
  rfl

theorem turn_device_rbTerm (hp : s.dev.phase = .dReadback) (hri : s.dev.ri.toNat = s.dev.size.toNat + 1) :
    makeMove (.turn .device) s = .next { s with
      dev := { s.dev with phase := .dErase, ea := 0, hs := .idle }
      d2h := s.d2h ++ [Config.TERM] } := by
  have he : enabled .dsRbTerm s = true := by simp [enabled, hp, hri]
  exact (turn_device_of_enabled rfl he).trans (whenEnabled_of_enabled _ he)

/-! ## Runs of turns -/

theorem runMoves_turns_add {r : Role} {j k : Nat} {t : State} (h : runMoves (turns r j) s = .next t) :
    runMoves (turns r (j + k)) s = runMoves (turns r k) t := by
  rw [← runMoves_append h, turns, turns, turns, List.replicate_add]

theorem runMoves_turns_succ {r : Role} {k : Nat} {t : State} (h : makeMove (.turn r) s = .next t) :
    runMoves (turns r (k + 1)) s = runMoves (turns r k) t := by
  rw [turns, List.replicate_succ, runMoves, h]
  rfl

/-! ## Receiving a window -/

/-- A good device that has received the bytes `v` of a window and awaits the next one (R210). -/
structure HasReceived (v : List Byte) (d : DeviceInst) : Prop where
  good : DeviceGood d
  phase : d.phase = .dRecv
  window : rxWindow d = some v

theorem HasReceived.n_eq {v : List Byte} (h : HasReceived v d) : d.n.toNat = v.length :=
  (bufTake_length h.window).symm

/-- A device that has just acknowledged a request has received nothing. -/
theorem HasReceived.nil (hg : DeviceGood d) (hp : d.phase = .dRecv) (hn : d.n = 0) : HasReceived [] d :=
  ⟨hg, hp, by rw [rxWindow, hn]; rfl⟩

/-- DS.RX.DATA lengthens the window by the byte it takes (R212). -/
theorem HasReceived.store {v : List Byte} {b : Byte} (h : HasReceived v d) (hn : d.n.toNat < Config.CAP)
    (hb : b ≠ Config.TERM) :
    HasReceived (v ++ [b]) (storedByte b d) where
  good := h.good.store h.phase hn hb
  phase := by simp [storedByte, nvWriteByte_eq, h.phase]
  window := by
    rw [rxWindow, storedByte, cnt_toNat_add_one hn.le]
    exact bufTake_tabSet_succ b h.window

/-- The device takes the bytes of a window that fits, one a turn, and nothing else of the channel (R210, R212). -/
theorem receive_window {v w rest : List Byte} (h : HasReceived v s.dev) (hw : Config.TERM ∉ w)
    (hlen : v.length + w.length ≤ Config.CAP) (hc : s.h2d = w ++ rest) :
    ∃ e, HasReceived (v ++ w) e ∧ runMoves (turns .device w.length) s = .next { s with dev := e, h2d := rest } := by
  induction w generalizing v s with
  | nil =>
    refine ⟨s.dev, by rwa [List.append_nil], ?_⟩
    rw [← show s.h2d = rest from hc]
    rfl
  | cons b w ih =>
    obtain ⟨hb, hw⟩ := not_or.mp (mt List.mem_cons.mpr hw)
    rw [List.length_cons] at hlen
    have hn : s.dev.n.toNat < Config.CAP := by rw [h.n_eq]; omega
    rw [List.length_cons, runMoves_turns_succ (turn_device_rxData h.phase hc (Ne.symm hb) hn), List.append_cons]
    exact ih (h.store hn (Ne.symm hb)) hw (by simp; omega) rfl

/-! ## Verifying and committing it -/

/-- The bytes before the last of those that can be read. -/
theorem bufTake_dropLast {m : Buf} {k : Nat} {w : List Byte} (h : bufTake m (k + 1) = some w) :
    bufTake m k = some w.dropLast := by
  rw [bufTake] at h
  split at h
  · next xs b hxs _ =>
    obtain rfl := Option.some.inj h
    rw [hxs, List.dropLast_concat]
  · cases h

/-- In a closed window the payload is the window without its last byte (R28, R175). -/
theorem rxPayload_of_rxWindow {w : List Byte} (hn : d.n.toNat = d.size.toNat + 1) (hw : rxWindow d = some w) :
    rxPayload d = some w.dropLast := by
  rw [rxWindow, hn] at hw
  exact bufTake_dropLast hw

theorem vokOf_verdictOf (r : Byte) : vokOf (verdictOf r) = decide (r = 0x00) := by
  unfold verdictOf
  split_ifs with hr
  · exact (decide_eq_true hr).symm
  · exact (decide_eq_false hr).symm

theorem diagOf_verdictOf (r : Byte) :
    diagOf (verdictOf r) = if r = 0x00 then [.vstart, .vpass] else [.vstart, .vfail] := by
  unfold verdictOf
  split_ifs <;> rfl

/-- A good device that has committed the window `w` and has sent nothing back yet (R216, R217). -/
structure HasCommitted (w : List Byte) (d : DeviceInst) : Prop where
  good : DeviceGood d
  phase : d.phase = .dReadback
  payload : rxPayload d = some w.dropLast
  n : d.n.toNat = w.length
  ri : d.ri = 0
  vdone : d.vdone = true
  vok : d.vok = decide (checksum w = 0x00)

/-- DS.COMMIT of the window just verified, on a good device that has closed it (R217). -/
theorem HasCommitted.of_closed {w : List Byte} (hg : DeviceGood d) (hp : d.phase = .dVerify) (hw : rxWindow d = some w) :
    HasCommitted w (committedPayload w.dropLast (verifiedWindow w d)) := by
  have hn : d.n.toNat = d.size.toNat + 1 := hg.sizeOfN (by rw [hp]; rfl)
  have hpayload : rxPayload d = some w.dropLast := rxPayload_of_rxWindow hn hw
  have hlength : d.n.toNat = w.length := (bufTake_length hw).symm
  refine
    { good := (hg.verify hp _ _).commit rfl hpayload
      phase := rfl
      payload := ?_
      n := ?_
      ri := rfl
      vdone := ?_
      vok := ?_ }
  · simpa [committedPayload, verifiedWindow, rxPayload, nvEraseWrite_eq] using hpayload
  · simpa [committedPayload, verifiedWindow, nvEraseWrite_eq] using hlength
  · simp [committedPayload, verifiedWindow, nvEraseWrite_eq]
  · simp [committedPayload, verifiedWindow, nvEraseWrite_eq, vokOf_verdictOf]

/-- The device closes a window at its terminator, reports its verdict and commits, in three turns (R213, R216, R217). -/
theorem commit_window {w rest : List Byte} (h : HasReceived w s.dev) (hne : w ≠ []) (hc : s.h2d = Config.TERM :: rest) :
    ∃ e, HasCommitted w e ∧ runMoves (turns .device 3) s =
      .next { s with dev := e, h2d := rest, diag := diagOf (verdictOf (checksum w)) } := by
  have hn : 1 ≤ s.dev.n.toNat := by rw [h.n_eq]; exact List.length_pos_of_ne_nil hne
  have hclosed : DeviceGood (closedWindow s.dev) := h.good.closeWindow h.phase hn
  have hpayload : rxPayload (closedWindow s.dev) = some w.dropLast :=
    rxPayload_of_rxWindow (hclosed.sizeOfN rfl) h.window
  exact ⟨_, .of_closed hclosed rfl h.window,
    Eq.trans (runMoves_turns_succ (turn_device_rxTerm h.phase hc hn))
      (Eq.trans (runMoves_turns_succ (turn_device_verify rfl h.window))
        (runMoves_turns_succ (turn_device_commit rfl hpayload)))⟩

/-! ## Sending it back -/

/-- The bytes of `k` cells from address `a` on. -/
def cellBytes (m : NvMem) (a k : Nat) : List Byte := (List.range' a k).map (nvVal m)

theorem cellBytes_succ_left (m : NvMem) (a k : Nat) : cellBytes m a (k + 1) = nvVal m a :: cellBytes m (a + 1) k := rfl

theorem cellBytes_succ_right (m : NvMem) (k : Nat) : cellBytes m 0 (k + 1) = cellBytes m 0 k ++ [nvVal m k] := by
  simp [cellBytes, List.range'_1_concat]

theorem nvVal_of_programmedCell {m : NvMem} {a : Nat} {b : Byte} (h : nvCell m a = programmedCell b) :
    nvVal m a = b := by
  rw [nvVal, h]
  rfl

/-- Where the mirror holds, the cells' bytes are the buffer's (R65). -/
theorem bufTake_of_mirrored {k : Nat} (h : mirrored d k) : bufTake d.buf k = some (cellBytes d.nv 0 k) := by
  induction k with
  | zero => rfl
  | succ k ih =>
    obtain ⟨b, hb, -, hcell⟩ := h k (Nat.lt_succ_self k)
    rw [bufTake, ih (mirrored_mono (Nat.le_succ k) h), hb, cellBytes_succ_right, nvVal_of_programmedCell hcell]

theorem HasCommitted.csum_eq {w : List Byte} (h : HasCommitted w d) : d.csum = checksum w.dropLast := by
  obtain ⟨-, -, hcsum⟩ := h.good.committed h.phase
  rw [h.payload] at hcsum
  exact (Option.some.inj hcsum).symm

/-- What the mirror holds after DS.COMMIT: the payload as received and the checksum recomputed from it (R81). -/
theorem HasCommitted.cellBytes_eq {w : List Byte} (h : HasCommitted w d) :
    cellBytes d.nv 0 (d.size.toNat + 1) = w.dropLast ++ [checksum w.dropLast] := by
  obtain ⟨hmirror, hlast, -⟩ := h.good.committed h.phase
  have hpayload : w.dropLast = cellBytes d.nv 0 d.size.toNat :=
    Option.some.inj (h.payload.symm.trans (bufTake_of_mirrored hmirror))
  rw [cellBytes_succ_right, ← hpayload, nvVal_of_programmedCell hlast, h.csum_eq]

/-- The device sends back the cells from `RI` up to `r`, one a turn (R218). -/
theorem send_cells {k : Nat} {r : Cnt} (hp : s.dev.phase = .dReadback) (hr : r.toNat = s.dev.ri.toNat + k)
    (hend : r.toNat ≤ s.dev.size.toNat + 1) (hsize : s.dev.size.toNat < Config.CAP) :
    runMoves (turns .device k) s = .next { s with
      dev := { s.dev with ri := r }
      d2h := s.d2h ++ cellBytes s.dev.nv s.dev.ri.toNat k } := by
  induction k generalizing s with
  | zero =>
    obtain rfl : r = s.dev.ri := BitVec.eq_of_toNat_eq hr
    simp [turns, runMoves, cellBytes]
  | succ k ih =>
    have hsucc : (s.dev.ri + 1).toNat = s.dev.ri.toNat + 1 := cnt_toNat_add_one (by omega)
    have hbytes : cellBytes s.dev.nv s.dev.ri.toNat (k + 1) =
        nvVal s.dev.nv s.dev.ri.toNat :: cellBytes s.dev.nv (s.dev.ri + 1).toNat k := by
      rw [cellBytes_succ_left, hsucc]
    refine Eq.trans (runMoves_turns_succ (turn_device_rbByte hp (by omega) hsize))
      (Eq.trans (ih hp (show r.toNat = (s.dev.ri + 1).toNat + k by omega) hend hsize) ?_)
    simp [hbytes]

/-- The device sends back what it has committed, ends with a terminator and starts erasing (R210, R218, R219). -/
theorem send_back {w : List Byte} (h : HasCommitted w s.dev) :
    runMoves (turns .device (s.dev.size.toNat + 2)) s = .next { s with
      dev := { s.dev with ri := s.dev.size + 1, phase := .dErase, ea := 0, hs := .idle }
      d2h := s.d2h ++ w.dropLast ++ [checksum w.dropLast] ++ [Config.TERM] } := by
  have hsize := h.good.sizeRange
  have hsucc : (s.dev.size + 1).toNat = s.dev.size.toNat + 1 := cnt_toNat_add_one hsize.le
  have hri : s.dev.ri.toNat = 0 := by rw [h.ri]; rfl
  have hcells := send_cells (k := s.dev.size.toNat + 1) h.phase (by omega) hsucc.le hsize
  rw [hri, h.cellBytes_eq] at hcells
  refine Eq.trans (runMoves_turns_add (k := 1) hcells)
    (Eq.trans (runMoves_turns_succ (turn_device_rbTerm h.phase hsucc)) ?_)
  simp [turns, runMoves]

end Sys2Proof.Machine

namespace Sys2Proof.Proofs

open Sys2Proof Sys2Proof.Machine

/-- Settles O59: the window is received by induction on its bytes, closed, verified and committed in three turns, and sent
back from the mirror, which the invariant says holds the payload and its checksum. -/
theorem deviceServesOneSession : Obligations.DeviceServesOneSession := by
  intro w rest s hg hp hn hne hw hlen hc
  have hstart : HasReceived [] s.dev := .nil hg hp hn
  obtain ⟨d, (hd : HasReceived w d), hreceive⟩ :=
    receive_window (rest := Config.TERM :: rest) hstart hw (by simpa using hlen) (by rw [hc, List.append_assoc]; rfl)
  obtain ⟨e, he, hcommit⟩ := commit_window (s := { s with dev := d, h2d := Config.TERM :: rest }) hd hne rfl
  have hsize : e.size.toNat + 1 = w.length := by rw [← he.n, he.good.sizeOfN (by rw [he.phase]; rfl)]
  have hrun := calc
    runMoves (turns .device (2 * w.length + 4)) s
      = runMoves (turns .device (w.length + (3 + (e.size.toNat + 2)))) s := by congr 2; omega
    _ = runMoves (turns .device (3 + (e.size.toNat + 2))) _ := runMoves_turns_add hreceive
    _ = runMoves (turns .device (e.size.toNat + 2)) _ := runMoves_turns_add hcommit
    _ = _ := send_back he
  exact ⟨_, hrun, rfl, rfl, rfl, rfl, rfl, rfl, he.n, Nat.eq_sub_of_add_eq hsize, he.csum_eq, he.vdone, he.vok,
    he.good.dfault_eq_zero (by simp [he.phase]), diagOf_verdictOf _⟩

end Sys2Proof.Proofs

/-! SUPPORT. What a sequencer's transition does to the channels, and when: in a receiving phase it takes, in the others it
sends (R60, R69, R75). And `NVFAULT` through a turn (R80). -/

namespace Sys2Proof.Machine

variable {s t : State}

/-! ## Phases that receive, and transitions that take a byte -/

/-- The phases in which the DEVICE takes bytes from `H2D` (R75, R102). -/
def deviceReceives : DPhase → Bool
  | .dAwait | .dRecv => true
  | .dErase | .dReply | .dVerify | .dCommit | .dReadback | .dFault => false

/-- The phases in which the HOST takes bytes from `D2H` (R75, R102). -/
def hostReceives : HPhase → Bool
  | .hAwait | .hReadback => true
  | .hIdle | .hEncode | .hReq | .hSend | .hDone | .hFailed => false

/-- The transitions that take the byte at the head of the incoming channel (R102). -/
def takesByte : Instr → Bool
  | .hsDSkip _ | .hsDReq | .dsRxData _ | .dsRxTerm | .dsRxOver _ | .dsRxEmpty => true
  | .hsHAck | .hsHNak _ | .lsRbData _ | .lsRbTerm | .lsRbOver _ => true
  | _ => false

/-- An enabled device transition takes a byte exactly where the phase is a receiving one. -/
theorem deviceReceives_of_enabled {i : Instr} (hi : isDeviceOp i = true) (he : enabled i s = true) :
    deviceReceives s.dev.phase = takesByte i := by
  cases i with
  | hsDArm | dsErase =>
    have hp : s.dev.phase = .dErase := by grind [enabled]
    rw [hp]; rfl
  | hsDSkip | hsDReq =>
    have hp : s.dev.phase = .dAwait := by grind [enabled, devSees]
    rw [hp]; rfl
  | hsDAck =>
    have hp : s.dev.phase = .dReply := eq_of_beq he
    rw [hp]; rfl
  | dsRxData | dsRxTerm | dsRxOver | dsRxEmpty =>
    have hp : s.dev.phase = .dRecv := by grind [enabled, devSees]
    rw [hp]; rfl
  | dsVerify =>
    have hp : s.dev.phase = .dVerify := eq_of_beq he
    rw [hp]; rfl
  | dsCommit =>
    have hp : s.dev.phase = .dCommit := eq_of_beq he
    rw [hp]; rfl
  | dsRbByte | dsRbTerm =>
    have hp : s.dev.phase = .dReadback := by grind [enabled]
    rw [hp]; rfl
  | _ => exact Bool.noConfusion hi

/-- An enabled host transition takes a byte exactly where the phase is a receiving one. -/
theorem hostReceives_of_enabled {i : Instr} (hi : isHostOp i = true) (he : enabled i s = true) :
    hostReceives s.host.phase = takesByte i := by
  cases i with
  | hsHReq =>
    have hp : s.host.phase = .hReq := eq_of_beq he
    rw [hp]; rfl
  | hsHAck | hsHNak =>
    have hp : s.host.phase = .hAwait := by grind [enabled, hostSees]
    rw [hp]; rfl
  | lsEncode =>
    have hp : s.host.phase = .hEncode := eq_of_beq he
    rw [hp]; rfl
  | lsTx =>
    have hp : s.host.phase = .hSend := eq_of_beq he
    rw [hp]; rfl
  | lsRbData | lsRbTerm | lsRbOver =>
    have hp : s.host.phase = .hReadback := by grind [enabled, hostSees]
    rw [hp]; rfl
  | _ => exact Bool.noConfusion hi

/-! ## The channels of a role -/

/-- What one transition may do to the incoming channel `inc` and the outgoing channel `out` of a role: nothing, or take one
byte in a receiving phase, or send one byte in another phase (R69, R75). -/
inductive ChannelUse (receives : Bool) (inc out inc' out' : List Byte) : Prop where
  | quiet (hinc : inc' = inc) (hout : out' = out)
  | takes (hr : receives = true) (hinc : inc' = inc.tail) (hout : out' = out)
  | sends (hr : receives = false) (b : Byte) (hinc : inc' = inc) (hout : out' = out ++ [b])

section ChannelUse

variable {receives : Bool} {inc out inc' out' : List Byte} (h : ChannelUse receives inc out inc' out')
include h

theorem ChannelUse.takes_or_sends :
    (inc' = inc ∧ out' = out) ∨ (inc' = inc.tail ∧ out' = out) ∨ (inc' = inc ∧ ∃ b, out' = out ++ [b]) := by
  cases h with
  | quiet hinc hout => exact .inl ⟨hinc, hout⟩
  | takes _ hinc hout => exact .inr (.inl ⟨hinc, hout⟩)
  | sends _ b hinc hout => exact .inr (.inr ⟨hinc, b, hout⟩)

/-- Nothing is sent in a receiving phase. -/
theorem ChannelUse.out_eq (hr : receives = true) : out' = out := by
  cases h with
  | quiet _ hout | takes _ _ hout => exact hout
  | sends hr' => exact Bool.noConfusion (hr.symm.trans hr')

/-- Nothing is taken in another phase. -/
theorem ChannelUse.inc_eq (hr : receives = false) : inc' = inc := by
  cases h with
  | quiet hinc | sends _ _ hinc => exact hinc
  | takes hr' => exact Bool.noConfusion (hr.symm.trans hr')

end ChannelUse

/-! ## The transitions -/

/-- What a transition of the DEVICE does beside its own registers (R60, R69). -/
structure DeviceTransits (s t : State) : Prop where
  host : t.host = s.host
  agenda : t.agenda = s.agenda
  tick : t.tick = s.tick
  channels : ChannelUse (deviceReceives s.dev.phase) s.h2d s.d2h t.h2d t.d2h

/-- What a transition or a reaction of the HOST does beside its own registers (R60, R69). -/
structure HostTransits (s t : State) : Prop where
  dev : t.dev = s.dev
  agenda : t.agenda = s.agenda
  tick : t.tick = s.tick
  channels : ChannelUse (hostReceives s.host.phase) s.d2h s.h2d t.d2h t.h2d

theorem DeviceTransits.refl (s : State) : DeviceTransits s s := ⟨rfl, rfl, rfl, .quiet rfl rfl⟩

theorem HostTransits.refl (s : State) : HostTransits s s := ⟨rfl, rfl, rfl, .quiet rfl rfl⟩

/-- A device transition leaves the host alone and takes or sends at most one byte, as its phase says. -/
theorem exec_deviceOp_transits {i : Instr} (hi : isDeviceOp i = true) (h : exec i s = .next t) :
    DeviceTransits s t := by
  cases i with
  | hsDArm | dsErase =>
    exact keeps_of_whenEnabled (DeviceTransits s) h (.refl s) fun _ => ⟨rfl, rfl, rfl, .quiet rfl rfl⟩
  | hsDSkip | hsDReq | dsRxData | dsRxTerm | dsRxOver | dsRxEmpty =>
    exact keeps_of_whenEnabled (DeviceTransits s) h (.refl s) fun he =>
      ⟨rfl, rfl, rfl, .takes (deviceReceives_of_enabled rfl he) rfl rfl⟩
  | hsDAck | dsRbTerm =>
    exact keeps_of_whenEnabled (DeviceTransits s) h (.refl s) fun he =>
      ⟨rfl, rfl, rfl, .sends (deviceReceives_of_enabled rfl he) _ rfl rfl⟩
  | dsVerify =>
    rcases execDsVerify_next h with rfl | ⟨w, -, -, rfl⟩
    · exact .refl t
    · exact ⟨rfl, rfl, rfl, .quiet rfl rfl⟩
  | dsCommit =>
    rcases execDsCommit_next h with rfl | ⟨q, -, -, rfl⟩
    · exact .refl t
    · exact ⟨rfl, rfl, rfl, .quiet rfl rfl⟩
  | dsRbByte =>
    cases he : enabled .dsRbByte s with
    | false => rw [eq_of_exec_of_not_enabled he h]; exact .refl s
    | true =>
      rcases execDsRbByte_next h with rfl | ⟨b, -, rfl⟩
      · exact .refl t
      · exact ⟨rfl, rfl, rfl, .sends (deviceReceives_of_enabled rfl he) b rfl rfl⟩
  | _ => exact Bool.noConfusion hi

/-- A host transition or reaction leaves the device alone and takes or sends at most one byte, as its phase says. -/
theorem exec_hostSequencer_transits {i : Instr} (hi : isHostOp i = true ∨ isHostReaction i = true)
    (h : exec i s = .next t) : HostTransits s t := by
  cases i with
  | hsHReq =>
    exact keeps_of_whenEnabled (HostTransits s) h (.refl s) fun he =>
      ⟨rfl, rfl, rfl, .sends (hostReceives_of_enabled rfl he) _ rfl rfl⟩
  | hsHAck | hsHNak | lsRbData | lsRbTerm | lsRbOver =>
    exact keeps_of_whenEnabled (HostTransits s) h (.refl s) fun he =>
      ⟨rfl, rfl, rfl, .takes (hostReceives_of_enabled rfl he) rfl rfl⟩
  | hsHTimeout | lsStart | lsRbTimeout | lsLinkfail =>
    exact keeps_of_whenEnabled (HostTransits s) h (.refl s) fun _ => ⟨rfl, rfl, rfl, .quiet rfl rfl⟩
  | lsEncode =>
    rcases execLsEncode_next h with rfl | ⟨-, rfl | ⟨-, rfl | ⟨g, -, rfl⟩⟩⟩
    · exact .refl t
    all_goals exact ⟨rfl, rfl, rfl, .quiet rfl rfl⟩
  | lsTx =>
    rcases execLsTx_next h with rfl | ⟨b, hp, rfl⟩
    · exact .refl t
    · exact ⟨rfl, rfl, rfl, .sends (by rw [hp]; rfl) b rfl rfl⟩
  | _ => simp [isHostOp, isHostReaction] at hi

theorem turn_device_transits (h : makeMove (.turn .device) s = .next t) : DeviceTransits s t := by
  rcases turn_device_next h with rfl | ⟨i, hi, hx⟩
  · exact .refl t
  · exact exec_deviceOp_transits hi hx

theorem turn_host_transits (h : makeMove (.turn .host) s = .next t) : HostTransits s t := by
  rcases turn_host_next h with rfl | ⟨i, hi, hx⟩
  · exact .refl t
  · exact exec_hostSequencer_transits (.inl hi) hx

/-! ## Erase before write -/

theorem recv_of_enabled_dsRxData {b : Byte} (he : enabled (.dsRxData b) s = true) :
    s.dev.phase = .dRecv ∧ s.dev.n.toNat < Config.CAP := by
  obtain ⟨⟨⟨hp, -⟩, -⟩, hn⟩ : ((s.dev.phase = .dRecv ∧ _) ∧ _) ∧ s.dev.n.toNat < Config.CAP := by
    simpa [enabled, devSees] using he
  exact ⟨hp, hn⟩

/-- A storage command inside the array does not set `NVFAULT` (R62, R156). -/
theorem nvChange_nvfault_of_lt {a : Cnt} (f : NvCell → NvCell) (d : DeviceInst) (ha : a.toNat < Config.CAP) :
    (nvChange a f d).nvfault = d.nvfault := by
  simp [nvRefuses, ha]

/-- No transition of a good device is refused by the storage controller: `EA`, `N` and `SIZE` are inside the array where
they are used as an address (R80). -/
theorem exec_deviceOp_nvfault {i : Instr} (hg : DeviceGood s.dev) (hi : isDeviceOp i = true) (h : exec i s = .next t) :
    t.dev.nvfault = s.dev.nvfault := by
  cases i with
  | dsErase =>
    refine keeps_of_whenEnabled (·.dev.nvfault = s.dev.nvfault) h rfl fun he => ?_
    obtain ⟨-, hea⟩ : s.dev.phase = .dErase ∧ s.dev.ea.toNat < Config.CAP := by simpa [enabled] using he
    exact nvChange_nvfault_of_lt _ s.dev hea
  | dsRxData b =>
    refine keeps_of_whenEnabled (·.dev.nvfault = s.dev.nvfault) h rfl fun he => ?_
    obtain ⟨-, hn⟩ := recv_of_enabled_dsRxData he
    exact nvChange_nvfault_of_lt _ s.dev hn
  | dsCommit =>
    rcases execDsCommit_next h with rfl | ⟨q, -, -, rfl⟩
    · rfl
    · exact nvChange_nvfault_of_lt _ s.dev hg.sizeRange
  | dsVerify => rcases execDsVerify_next h with rfl | ⟨w, -, -, rfl⟩ <;> rfl
  | dsRbByte => rcases execDsRbByte_next h with rfl | ⟨b, -, rfl⟩ <;> rfl
  | hsDArm | hsDSkip | hsDReq | hsDAck | dsRxTerm | dsRxOver | dsRxEmpty | dsRbTerm =>
    exact keeps_of_whenEnabled (·.dev.nvfault = s.dev.nvfault) h rfl fun _ => rfl
  | _ => exact Bool.noConfusion hi

theorem turn_nvfault {r : Role} (hg : DeviceGood s.dev) (h : makeMove (.turn r) s = .next t) :
    t.dev.nvfault = s.dev.nvfault := by
  cases r with
  | device =>
    rcases turn_device_next h with rfl | ⟨i, hi, hx⟩
    · rfl
    · exact exec_deviceOp_nvfault hg hi hx
  | host => rw [(turn_host_transits h).dev]

end Sys2Proof.Machine

namespace Sys2Proof.Proofs

open Sys2Proof Sys2Proof.Machine

/-- Settles O52: a good device's cells from `N` on are erased while its window is open, and every address that it hands to
the storage controller is inside the array. -/
theorem eraseBeforeWrite : Obligations.EraseBeforeWrite := by
  refine fun s hg => ⟨fun b he => ?_, fun r t h => turn_nvfault hg.dev h⟩
  obtain ⟨hp, hn⟩ := recv_of_enabled_dsRxData he
  have herased : nvCell s.dev.nv s.dev.n.toNat = erasedCell := hg.dev.aboveWindow (by rw [hp]; rfl) _ le_rfl hn
  exact ⟨by rw [nvTag, herased]; rfl, hn⟩

/-- Settles O54, transition by transition. -/
theorem rolesShareOnlyTheChannels : Obligations.RolesShareOnlyTheChannels := by
  refine fun i s t h => ⟨fun hi => ?_, fun hi => ?_⟩
  · obtain ⟨hhost, hagenda, htick, hchannels⟩ := exec_deviceOp_transits hi h
    exact ⟨hhost, hagenda, htick, hchannels.takes_or_sends⟩
  · obtain ⟨hdev, hagenda, htick, hchannels⟩ := exec_hostSequencer_transits hi h
    exact ⟨hdev, hagenda, htick, hchannels.takes_or_sends.imp_left And.symm⟩

/-- Settles O55: a turn is a transition of its role, which sends in no receiving phase and takes in no other. -/
theorem halfDuplexTurns : Obligations.HalfDuplexTurns := by
  refine fun s t => ⟨fun h => ?_, fun h => ?_⟩
  · have hchannels := (turn_host_transits h).channels
    refine ⟨fun hp => hchannels.inc_eq ?_, fun hp => hchannels.out_eq ?_⟩
    · rcases hp with hp | hp <;> rw [hp] <;> rfl
    · rcases hp with hp | hp <;> rw [hp] <;> rfl
  · have hchannels := (turn_device_transits h).channels
    refine ⟨fun hp => hchannels.out_eq ?_, fun hawait hrecv => hchannels.inc_eq ?_⟩
    · rcases hp with hp | hp <;> rw [hp] <;> rfl
    · cases hphase : s.dev.phase with
      | dAwait => exact absurd hphase hawait
      | dRecv => exact absurd hphase hrecv
      | _ => rfl

end Sys2Proof.Proofs

/-! SUPPORT. What a sequencer's `SEQ` word is read as: the one operation of its role that the state enables (R102, R109,
R110, R262). -/

namespace Sys2Proof.Machine

variable {s : State}

/-! ## A device word is read as the enabled transition -/

/-- Whatever the device's word is read as is enabled (R109, R220). -/
theorem decodeDev_devWord_reads_enabled (s : State) : ReadsOp (enabled · s) (decodeDev (devWord s)) := by
  have hphase : DPhase.ofCode (devWord s).phase = s.dev.phase := DPhase.ofCode_code _
  rw [decodeDev, hphase]
  cases hp : s.dev.phase with
  | dErase | dReadback =>
    dsimp only
    split_ifs with hlt heq
    · exact .op (by simpa [enabled, hp, devWord] using hlt)
    · exact .op (by simpa [enabled, hp, devWord] using heq)
    · exact .blocked
  | dAwait =>
    dsimp only [devWord]
    cases hhead : s.h2d.head? with
    | none => exact .blocked
    | some b =>
      simp only [decodeAwait]
      split_ifs with hb
      · exact .op (by simp [enabled, devSees, hp, hhead, hb])
      · exact .op (by simp [enabled, devSees, hp, hhead, hb])
  | dRecv =>
    dsimp only [devWord]
    cases hhead : s.h2d.head? with
    | none => exact .blocked
    | some b =>
      simp only [decodeRecv]
      split_ifs with hb hn hlt heq
      · exact .op (by simp only [enabled, devSees, hp, hhead, hb, hn]; rfl)
      · have hpos : 1 ≤ s.dev.n.toNat := Nat.one_le_iff_ne_zero.mpr hn
        exact .op (by simp only [enabled, devSees, hp, hhead, hb, decide_eq_true hpos]; rfl)
      · exact .op (by simp [enabled, devSees, hp, hhead, hb, hlt])
      · exact .op (by simp [enabled, devSees, hp, hhead, hb, heq])
      · exact .blocked
  | dReply | dVerify | dCommit => exact .op (by simp [enabled, hp])
  | dFault => exact .blocked

theorem decodeDev_devWord_iff {i : Instr} :
    decodeDev (devWord s) = .ok i ↔ isDeviceOp i = true ∧ enabled i s = true :=
  ⟨fun h => ⟨(decodeDev_readsOp _).of_ok h, (decodeDev_devWord_reads_enabled s).of_ok h⟩,
    fun ⟨hi, he⟩ => decodeDev_devWord_of_enabled hi he⟩

/-! ## A host word without an event is read as the enabled step -/

/-- Whatever the host's word without an event is read as is enabled (R110, R230). -/
theorem decodeHost_hostWord_none_reads_enabled (s : State) :
    ReadsOp (enabled · s) (decodeHost (hostWord none s)) := by
  simp only [decodeHost, hostWord, HPhase.ofCode_code]
  cases hp : s.host.phase with
  | hIdle | hDone | hFailed => exact .blocked
  | hEncode | hReq | hSend => exact .op (by simp [enabled, hp])
  | hAwait =>
    cases hhead : s.d2h.head? with
    | none => exact .blocked
    | some b =>
      simp only [decodeHostTurn]
      split_ifs with hb
      · exact .op (by simp [enabled, hostSees, hp, hhead, hb])
      · exact .op (by simp [enabled, hostSees, hp, hhead, hb])
  | hReadback =>
    cases hhead : s.d2h.head? with
    | none => exact .blocked
    | some b =>
      simp only [decodeHostTurn]
      split_ifs with hb hlt heq
      · exact .op (by simp [enabled, hostSees, hp, hhead, hb])
      · exact .op (by simp [enabled, hostSees, hp, hhead, hb, hlt])
      · exact .op (by simp [enabled, hostSees, hp, hhead, hb, heq])
      · exact .blocked

/-- The host's `SEQ` word without an event reads as the step that is enabled (R110). -/
theorem decodeHost_hostWord_none_of_enabled {i : Instr} (hi : isHostOp i = true) (he : enabled i s = true) :
    decodeHost (hostWord none s) = .ok i := by
  cases i with
  | hsHReq | lsEncode | lsTx =>
    have hp := eq_of_beq he
    simp [decodeHost, hostWord, decodeHostTurn, hp]
  | hsHAck =>
    obtain ⟨hp, hhead⟩ : s.host.phase = .hAwait ∧ s.d2h.head? = some Config.TOK_ACK := by
      simpa [enabled, hostSees] using he
    simp [decodeHost, hostWord, decodeHostTurn, hp, hhead]
  | hsHNak b =>
    obtain ⟨⟨hp, hhead⟩, hb⟩ : (s.host.phase = .hAwait ∧ s.d2h.head? = some b) ∧ b ≠ Config.TOK_ACK := by
      simpa [enabled, hostSees] using he
    simp [decodeHost, hostWord, decodeHostTurn, hp, hhead, hb]
  | lsRbTerm =>
    obtain ⟨hp, hhead⟩ : s.host.phase = .hReadback ∧ s.d2h.head? = some Config.TERM := by
      simpa [enabled, hostSees] using he
    simp [decodeHost, hostWord, decodeHostTurn, hp, hhead]
  | lsRbData b =>
    obtain ⟨⟨⟨hp, hhead⟩, hb⟩, hn⟩ :
        ((s.host.phase = .hReadback ∧ s.d2h.head? = some b) ∧ b ≠ Config.TERM) ∧ s.host.rn.toNat < Config.CAP := by
      simpa [enabled, hostSees] using he
    simp [decodeHost, hostWord, decodeHostTurn, hp, hhead, hb, hn]
  | lsRbOver b =>
    obtain ⟨⟨⟨hp, hhead⟩, hb⟩, hn⟩ :
        ((s.host.phase = .hReadback ∧ s.d2h.head? = some b) ∧ b ≠ Config.TERM) ∧ s.host.rn.toNat = Config.CAP := by
      simpa [enabled, hostSees] using he
    simp [decodeHost, hostWord, decodeHostTurn, hp, hhead, hb, hn]
  | _ => exact Bool.noConfusion hi

theorem decodeHost_hostWord_none_iff {i : Instr} :
    decodeHost (hostWord none s) = .ok i ↔ isHostOp i = true ∧ enabled i s = true :=
  ⟨fun h => ⟨(decodeHostTurn_readsOp _ s.host.rn s.d2h.head?).of_ok h, (decodeHost_hostWord_none_reads_enabled s).of_ok h⟩,
    fun ⟨hi, he⟩ => decodeHost_hostWord_none_of_enabled hi he⟩

theorem turn_host_of_enabled {i : Instr} (hi : isHostOp i = true) (he : enabled i s = true) :
    makeMove (.turn .host) s = exec i s :=
  makeMove_of_decode_ok rfl (decodeHost_hostWord_none_of_enabled hi he) rfl

/-! ## A host word with an event is read as the enabled reaction -/

/-- Whatever the host's word with an event is read as is a reaction to that event, and enabled (R230, R262). -/
theorem reactsTo_and_enabled_of_decodeHost {e : HostEvent} {i : Instr} (h : decodeHost (hostWord (some e) s) = .ok i) :
    reactsTo e i ∧ enabled i s = true := by
  simp only [decodeHost, hostWord, HPhase.ofCode_code] at h
  cases e with
  | start p fic =>
    simp only [decodeHostEvent] at h
    split_ifs at h with hp
    obtain rfl := Except.ok.inj h
    exact ⟨rfl, by simpa [enabled, or_assoc] using hp⟩
  | timeout =>
    simp only [decodeHostEvent] at h
    split_ifs at h with hawait hreadback
    · obtain rfl := Except.ok.inj h
      exact ⟨.inl rfl, by simpa [enabled] using hawait⟩
    · obtain rfl := Except.ok.inj h
      exact ⟨.inr rfl, by simpa [enabled] using hreadback⟩
  | linkfail =>
    simp only [decodeHostEvent] at h
    split_ifs at h with hp
    obtain rfl := Except.ok.inj h
    exact ⟨rfl, by simpa [enabled, or_assoc] using hp⟩

/-- The host's `SEQ` word with an event reads as the reaction to it that is enabled (R262). -/
theorem decodeHost_hostWord_some_of_enabled {e : HostEvent} {i : Instr} (hr : reactsTo e i) (he : enabled i s = true) :
    decodeHost (hostWord (some e) s) = .ok i := by
  simp only [decodeHost, hostWord, HPhase.ofCode_code]
  cases e with
  | start p fic =>
    obtain rfl := hr
    exact if_pos (by simpa [enabled, or_assoc] using he)
  | timeout =>
    rcases hr with rfl | rfl
    · exact if_pos (by simpa [enabled] using he)
    · obtain ⟨hp, hempty⟩ : s.host.phase = .hReadback ∧ s.d2h = [] := by simpa [enabled] using he
      simp [decodeHostEvent, hp, hempty]
  | linkfail =>
    obtain rfl := hr
    exact if_pos (by simpa [enabled, or_assoc] using he)

end Sys2Proof.Machine

namespace Sys2Proof.Proofs

open Sys2Proof Sys2Proof.Machine

/-- Settles O43: whatever the device's word is read as is an enabled transition, and an enabled transition is what the
word is read as. -/
theorem deviceTurnIsTheEnabledOperation : Obligations.DeviceTurnIsTheEnabledOperation :=
  fun _ _ => decodeDev_devWord_iff

/-- Settles O44, the host's own steps and its reactions to the three events. -/
theorem hostTurnIsTheEnabledOperation : Obligations.HostTurnIsTheEnabledOperation :=
  ⟨fun _ _ => decodeHost_hostWord_none_iff,
    fun _ _ _ => ⟨reactsTo_and_enabled_of_decodeHost, fun ⟨hr, he⟩ => decodeHost_hostWord_some_of_enabled hr he⟩⟩

end Sys2Proof.Proofs

/-! SUPPORT. The decoder reads back what the encoder writes, and reads nothing that is not well formed (R100 to R110). -/

namespace Sys2Proof.Machine

variable {s : State}

/-! ## What the encoder writes is read back -/

/-- The fields of a `CEC` word read back (R107). -/
theorem decodeCec_crcByte (r : Role) (b : Byte) : decodeCec r ((1 : BitVec 2) ++ b) = .ok (.crcByte r b) := by
  have hop : ((1 : BitVec 2) ++ b).extractLsb' 8 2 = 1 := BitVec.extractLsb'_append_eq_left
  have hdata : ((1 : BitVec 2) ++ b).extractLsb' 0 8 = b := BitVec.extractLsb'_append_eq_right
  simp only [decodeCec]
  rw [hop, hdata]
  rfl

/-- Every well-formed operation is read back from its encoding: the byte of a receiving operation is none of the bytes
that select another one in the same phase, and the fields of a word are its operands. -/
theorem decode_encode {i : Instr} (h : i.wf = true) : decode (encode i) = .ok i := by
  cases i with
  | crcByte r b => exact decodeCec_crcByte r b
  | nvRead | nvWrite | nvErase | nvErwr => simp [encode, decode, decodeNvc]
  | fiApply m o v => simp [encode, decode, decodeFic]
  | lsStart p m o v => simp [encode, decode, decodeHost, hostWordOf, decodeHostEvent]
  | fcEncode p => exact if_pos (of_decide_eq_true h)
  | hsDSkip b | hsHNak b => exact if_neg (bne_iff_ne.mp h)
  | dsRxData b | dsRxOver b | lsRbData b | lsRbOver b => exact if_neg (bne_iff_ne.mp h)
  | _ => rfl

/-! ## Every `SEQ` word is the word of a state -/

@[simp] theorem DPhase.code_ofCode (c : BitVec 3) : (DPhase.ofCode c).code = c := by
  revert c
  decide

@[simp] theorem HPhase.code_ofCode (c : BitVec 3) : (HPhase.ofCode c).code = c := by
  revert c
  decide

/-- A state whose device fetches the word `w`. -/
def stateOfDevWord (w : DevWord) : State :=
  { State.reset with
    dev := { DeviceInst.reset with phase := DPhase.ofCode w.phase, ea := w.ea, n := w.n, size := w.size, ri := w.ri }
    h2d := w.head.toList }

/-- A state whose host fetches the word `w` when the event of `w` is raised. -/
def stateOfHostWord (w : HostWord) : State :=
  { State.reset with
    host := { HostInst.reset with phase := HPhase.ofCode w.phase, rn := w.rn }
    d2h := w.head.toList }

@[simp] theorem devWord_stateOfDevWord (w : DevWord) : devWord (stateOfDevWord w) = w := by
  simp [devWord, stateOfDevWord]

@[simp] theorem hostWord_stateOfHostWord (w : HostWord) : hostWord w.event (stateOfHostWord w) = w := by
  simp [hostWord, stateOfHostWord]

/-! ## What is read is well formed -/

/-- An enabled operation of a sequencer is well formed: the byte it takes is one that selects it (R102). -/
theorem wf_of_enabled {i : Instr} (hi : isDeviceOp i = true ∨ isHostOp i = true ∨ isHostReaction i = true)
    (he : enabled i s = true) : i.wf = true := by
  cases i with
  | fcEncode => simp [isDeviceOp, isHostOp, isHostReaction] at hi
  | hsDSkip b | hsHNak b => exact (Bool.and_eq_true_iff.mp he).2
  | dsRxData b | dsRxOver b | lsRbData b | lsRbOver b =>
    obtain ⟨hbyte, -⟩ := Bool.and_eq_true_iff.mp he
    exact (Bool.and_eq_true_iff.mp hbyte).2
  | _ => rfl

theorem decodeDev_wf {w : DevWord} {i : Instr} (h : decodeDev w = .ok i) : i.wf = true := by
  rw [← devWord_stateOfDevWord w] at h
  obtain ⟨hi, he⟩ := decodeDev_devWord_iff.mp h
  exact wf_of_enabled (.inl hi) he

theorem isHostReaction_of_reactsTo {e : HostEvent} {i : Instr} (h : reactsTo e i) : isHostReaction i = true := by
  cases e with
  | start | linkfail => obtain rfl := h; rfl
  | timeout => rcases h with rfl | rfl <;> rfl

theorem decodeHost_wf {w : HostWord} {i : Instr} (h : decodeHost w = .ok i) : i.wf = true := by
  rw [← hostWord_stateOfHostWord w] at h
  cases hev : w.event with
  | none =>
    rw [hev] at h
    obtain ⟨hi, he⟩ := decodeHost_hostWord_none_iff.mp h
    exact wf_of_enabled (.inr (.inl hi)) he
  | some e =>
    rw [hev] at h
    obtain ⟨hr, he⟩ := reactsTo_and_enabled_of_decodeHost h
    exact wf_of_enabled (.inr (.inr (isHostReaction_of_reactsTo hr))) he

theorem decodeCec_wf {r : Role} {w : BitVec 10} {i : Instr} (h : decodeCec r w = .ok i) : i.wf = true := by
  unfold decodeCec at h
  split at h
  · obtain rfl := Except.ok.inj h; rfl
  · obtain rfl := Except.ok.inj h; rfl
  · obtain rfl := Except.ok.inj h; rfl
  · cases h

theorem decodeNvc_wf {w : BitVec 22} {i : Instr} (h : decodeNvc w = .ok i) : i.wf = true := by
  unfold decodeNvc at h
  split at h <;> obtain rfl := Except.ok.inj h <;> rfl

/-- Everything a byte before a role can be read as: the wire value it is (R101). -/
theorem decodeW8_ok {r : Role} {b : Byte} {i : Instr} (h : decodeW8 r b = .ok i) :
    (b = Config.TOK_REQ ∧ i = .tokReq r) ∨ (b = Config.TOK_ACK ∧ i = .tokAck r) ∨ (b = Config.TERM ∧ i = .term r) := by
  unfold decodeW8 at h
  split_ifs at h with hreq hack hterm
  · exact .inl ⟨hreq, (Except.ok.inj h).symm⟩
  · exact .inr (.inl ⟨hack, (Except.ok.inj h).symm⟩)
  · exact .inr (.inr ⟨hterm, (Except.ok.inj h).symm⟩)

theorem decodeW8_wf {r : Role} {b : Byte} {i : Instr} (h : decodeW8 r b = .ok i) : i.wf = true := by
  rcases decodeW8_ok h with ⟨-, rfl⟩ | ⟨-, rfl⟩ | ⟨-, rfl⟩ <;> rfl

theorem decodeRaw_wf {nbits w : Nat} {i : Instr} (h : decodeRaw nbits w = .ok i) : i.wf = true := by
  unfold decodeRaw at h
  split_ifs at h
  · exact decodeW8_wf h
  · exact decodeCec_wf h
  · exact decodeNvc_wf h

/-- Whatever the decoder reads is well formed, format by format. -/
theorem decode_wf {e : Encoding} {i : Instr} (h : decode e = .ok i) : i.wf = true := by
  cases e with
  | cec => exact decodeCec_wf h
  | nvc => exact decodeNvc_wf h
  | w8 => exact decodeW8_wf h
  | dev => exact decodeDev_wf h
  | host => exact decodeHost_wf h
  | raw => exact decodeRaw_wf h
  | payload p =>
    simp only [decode] at h
    split_ifs at h with hp
    obtain rfl := Except.ok.inj h
    exact decide_eq_true hp
  | fic | reset | classify | window =>
    obtain rfl := Except.ok.inj h
    rfl

end Sys2Proof.Machine

namespace Sys2Proof.Proofs

open Sys2Proof Sys2Proof.Machine

/-- Settles O41. A `SEQ` word is well formed where it is read because some state fetches it and enables the operation. -/
theorem decodeEncodeAgree : Obligations.DecodeEncodeAgree :=
  ⟨fun _ => decode_encode, fun _ _ => decode_wf⟩

/-- Settles O42, by the encodings of the operations and, for the bare words of the table, by evaluation. -/
theorem wordsOfTheSpec : Obligations.WordsOfTheSpec :=
  ⟨decode_encode (i := .nvErase 7) rfl, decode_encode (i := .nvWrite 7 0x42) rfl,
    decode_encode (i := .nvErwr 2 0x87) rfl, decode_encode (i := .nvRead 2048) rfl,
    decode_encode (i := .nvWrite 4095 0x11) rfl, decode_encode (i := .fiApply 1 2 0x01) rfl,
    decode_encode (i := .crcByte .host 0x41) rfl, rfl, rfl, rfl⟩

end Sys2Proof.Proofs

/-! SUPPORT. A byte before a role that takes it is that role's turn (R101, R102), and the host's turns that send its frame
(R103, R224). -/

namespace Sys2Proof.Machine

variable {s : State}

/-! ## A byte that is taken is a turn -/

/-- When the DEVICE takes a byte (R102). -/
theorem takes_device_eq_true {b : Byte} :
    takes .device b s = true ↔
      (s.dev.phase = .dAwait ∧ s.h2d.head? = some b) ∨
        (s.dev.phase = .dRecv ∧ s.h2d.head? = some b) ∧ (b = Config.TERM ∨ s.dev.n.toNat ≤ Config.CAP) := by
  simp [takes, devSees]

/-- When the HOST takes a byte (R102). -/
theorem takes_host_eq_true {b : Byte} :
    takes .host b s = true ↔
      (s.host.phase = .hAwait ∧ s.d2h.head? = some b) ∨
        (s.host.phase = .hReadback ∧ s.d2h.head? = some b) ∧ (b = Config.TERM ∨ s.host.rn.toNat ≤ Config.CAP) := by
  simp [takes, hostSees]

/-- A byte that a role takes is taken by a transition that its turn fetches (R102). -/
theorem decodeDev_of_takes {b : Byte} (h : takes .device b s = true) :
    ∃ i, decodeDev (devWord s) = .ok i ∧ deviceTakes b s = exec i s := by
  rcases takes_device_eq_true.mp h with ⟨hp, hhead⟩ | ⟨⟨hp, hhead⟩, hroom⟩
  · simp only [decodeDev, devWord, deviceTakes, DPhase.ofCode_code, hp, hhead, decodeAwait]
    split_ifs
    · exact ⟨_, rfl, rfl⟩
    · exact ⟨_, rfl, rfl⟩
  · simp only [decodeDev, devWord, deviceTakes, DPhase.ofCode_code, hp, hhead, decodeRecv]
    split_ifs with hb hn hlt heq
    · exact ⟨_, rfl, rfl⟩
    · exact ⟨_, rfl, rfl⟩
    · exact ⟨_, rfl, rfl⟩
    · exact ⟨_, rfl, rfl⟩
    · exact absurd (lt_or_eq_of_le (hroom.resolve_left hb)) (not_or.mpr ⟨hlt, heq⟩)

theorem decodeHost_of_takes {b : Byte} (h : takes .host b s = true) :
    ∃ i, decodeHost (hostWord none s) = .ok i ∧ hostTakes b s = exec i s := by
  rcases takes_host_eq_true.mp h with ⟨hp, hhead⟩ | ⟨⟨hp, hhead⟩, hroom⟩
  · simp only [decodeHost, hostWord, decodeHostTurn, hostTakes, HPhase.ofCode_code, hp, hhead]
    split_ifs
    · exact ⟨_, rfl, rfl⟩
    · exact ⟨_, rfl, rfl⟩
  · simp only [decodeHost, hostWord, decodeHostTurn, hostTakes, HPhase.ofCode_code, hp, hhead]
    split_ifs with hb hlt heq
    · exact ⟨_, rfl, rfl⟩
    · exact ⟨_, rfl, rfl⟩
    · exact ⟨_, rfl, rfl⟩
    · exact absurd (lt_or_eq_of_le (hroom.resolve_left hb)) (not_or.mpr ⟨hlt, heq⟩)

/-- A byte that a role takes does what the role's turn does (R101, R102). -/
theorem roleTakes_eq_turn {r : Role} {b : Byte} (h : takes r b s = true) : roleTakes r b s = makeMove (.turn r) s := by
  cases r with
  | device =>
    obtain ⟨i, hd, hx⟩ := decodeDev_of_takes h
    exact hx.trans (makeMove_of_decode_ok (e := .dev (devWord s)) rfl hd rfl).symm
  | host =>
    obtain ⟨i, hd, hx⟩ := decodeHost_of_takes h
    exact hx.trans (makeMove_of_decode_ok (e := .host (hostWord none s)) rfl hd rfl).symm

/-- A wire value does what its byte before the role does (R101, log 13). -/
theorem exec_of_decodeW8 {r : Role} {b : Byte} {i : Instr} (h : decodeW8 r b = .ok i) : exec i s = roleTakes r b s := by
  rcases decodeW8_ok h with ⟨rfl, rfl⟩ | ⟨rfl, rfl⟩ | ⟨rfl, rfl⟩ <;> rfl

/-- A turn that fetches an operation is that operation: the port bars no turn. -/
theorem makeMove_turn_of_decode_ok {r : Role} {e : Encoding} {i : Instr} (hf : fetched (.turn r) s = some e)
    (hd : decode e = .ok i) : makeMove (.turn r) s = exec i s :=
  makeMove_of_decode_ok hf hd rfl

/-! ## The turns that take a wire value -/

theorem turn_device_req {rest : List Byte} (hp : s.dev.phase = .dAwait) (hc : s.h2d = Config.TOK_REQ :: rest) :
    makeMove (.turn .device) s = .next { s with h2d := rest, dev := { s.dev with phase := .dReply } } := by
  have he : enabled .hsDReq s = true := by simp [enabled, devSees, hp, hc]
  refine (turn_device_of_enabled rfl he).trans ((whenEnabled_of_enabled _ he).trans ?_)
  simp [rxH2D, setDev, hc]

theorem turn_host_ack {rest : List Byte} (hp : s.host.phase = .hAwait) (hc : s.d2h = Config.TOK_ACK :: rest) :
    makeMove (.turn .host) s =
      .next { s with d2h := rest, host := { s.host with phase := .hSend, hs := .synced, ti := 0 } } := by
  have he : enabled .hsHAck s = true := by simp [enabled, hostSees, hp, hc]
  refine (turn_host_of_enabled rfl he).trans ((whenEnabled_of_enabled _ he).trans ?_)
  simp [rxD2H, setHost, hc]

theorem turn_host_rbTerm {rest : List Byte} (hp : s.host.phase = .hReadback) (hc : s.d2h = Config.TERM :: rest) :
    makeMove (.turn .host) s = .next { s with d2h := rest, host := { s.host with phase := .hDone } } := by
  have he : enabled .lsRbTerm s = true := by simp [enabled, hostSees, hp, hc]
  refine (turn_host_of_enabled rfl he).trans ((whenEnabled_of_enabled _ he).trans ?_)
  simp [rxD2H, setHost, hc]

/-! ## A role whose phase takes no byte -/

theorem takes_device_of_phase (b : Byte) (hawait : s.dev.phase ≠ .dAwait) (hrecv : s.dev.phase ≠ .dRecv) :
    takes .device b s = false := by
  simp [takes, devSees, hawait, hrecv]

theorem takes_host_of_phase (b : Byte) (hawait : s.host.phase ≠ .hAwait) (hreadback : s.host.phase ≠ .hReadback) :
    takes .host b s = false := by
  simp [takes, hostSees, hawait, hreadback]

/-- The three wire values change nothing before a role that takes none of them (R102, log 13). -/
theorem exec_wireValue_of_not_takes {r : Role} {i : Instr} (hi : i ∈ [Instr.tokReq r, .tokAck r, .term r])
    (h : ∀ b, takes r b s = false) : exec i s = .next s := by
  simp only [List.mem_cons, List.not_mem_nil, or_false] at hi
  rcases hi with rfl | rfl | rfl
  · exact roleTakes_of_not_takes (h Config.TOK_REQ)
  · exact roleTakes_of_not_takes (h Config.TOK_ACK)
  · exact roleTakes_of_not_takes (h Config.TERM)

/-! ## Sending a frame -/

/-- What can be read of a buffer is what its entries hold. -/
theorem tabGet_of_bufTake {m : Buf} {k i : Nat} {w : List Byte} (h : bufTake m k = some w) (hi : i < k) :
    tabGet m i = w[i]? := by
  induction k generalizing w with
  | zero => exact absurd hi (Nat.not_lt_zero i)
  | succ k ih =>
    rw [bufTake] at h
    split at h
    · next xs b hxs hb =>
      obtain rfl := Option.some.inj h
      have hlength : xs.length = k := bufTake_length hxs
      rcases Nat.lt_succ_iff_lt_or_eq.mp hi with hlt | rfl
      · rw [List.getElem?_append_left (by omega), ih hxs hlt]
      · rw [hb, ← hlength, List.getElem?_concat_length]
    · cases h

theorem turn_host_tx {b : Byte} (hp : s.host.phase = .hSend) (hb : txByte s.host = some b) :
    makeMove (.turn .host) s = .next { s with
      h2d := s.h2d ++ [b]
      host := { s.host with
        ti := s.host.ti + 1, phase := if s.host.ti + 1 = s.host.flen then .hReadback else s.host.phase } } := by
  have he : enabled .lsTx s = true := by simp [enabled, hp]
  refine (turn_host_of_enabled rfl he).trans ((whenEnabled_of_enabled _ he).trans ?_)
  rw [hb]
  rfl

/-- A host that has sent the bytes `u` of its frame sends the others, one a turn, and then awaits the readback (R224). -/
theorem send_rest {u v : List Byte} {b : Byte} (hp : s.host.phase = .hSend) (hti : s.host.ti.toNat = u.length)
    (hw : bufTake s.host.frame s.host.flen.toNat = some (u ++ b :: v)) :
    runMoves (turns .host (v.length + 1)) s = .next { s with
      h2d := s.h2d ++ b :: v, host := { s.host with ti := s.host.flen, phase := .hReadback } } := by
  induction v generalizing u b s with
  | nil =>
    have hflen : u.length + 1 = s.host.flen.toNat := by simpa using bufTake_length hw
    have hb : txByte s.host = some b := by rw [txByte, tabGet_of_bufTake hw (by omega), hti]; simp
    have hlast : s.host.ti + 1 = s.host.flen := by bv_omega
    rw [List.length_nil, runMoves_turns_succ (turn_host_tx hp hb), if_pos hlast, hlast]
    rfl
  | cons c v ih =>
    have hflen : u.length + (v.length + 1 + 1) = s.host.flen.toNat := by simpa using bufTake_length hw
    have hb : txByte s.host = some b := by rw [txByte, tabGet_of_bufTake hw (by omega), hti]; simp
    have hnext : s.host.ti + 1 ≠ s.host.flen := by bv_omega
    have hsucc : (s.host.ti + 1).toNat = (u ++ [b]).length := by
      rw [List.length_append, List.length_singleton]
      bv_omega
    rw [List.length_cons, runMoves_turns_succ (turn_host_tx hp hb), if_neg hnext]
    refine Eq.trans (ih (u := u ++ [b]) hp hsucc (by rwa [← List.append_cons])) ?_
    simp

end Sys2Proof.Machine

namespace Sys2Proof.Proofs

open Sys2Proof Sys2Proof.Machine

/-- Settles O58, by induction on the bytes that are left to send. -/
theorem hostSendsTheFrame : Obligations.HostSendsTheFrame := by
  intro w s hp hti hflen hw
  have hlength : w.length = s.host.flen.toNat := bufTake_length hw
  obtain ⟨b, v, rfl⟩ := List.exists_cons_of_length_pos (hlength ▸ hflen)
  rw [← hlength]
  exact send_rest (u := []) hp (by rw [hti]; rfl) hw

/-- Settles O40: a byte that a role takes is the role's turn, and one that it does not take changes nothing. -/
theorem wireValuesDecodedByPhase : Obligations.WireValuesDecodedByPhase := by
  refine ⟨fun rest s hp hc => ?request, fun rest s hp hc => ?reply, fun rest s hp hc hn => ?frameEnd,
    fun rest s hp hc => ?readbackEnd, fun r b i j e s hi ht hf hj => ?wireValue, fun s hawait hrecv i hi => ?device,
    fun s hawait hreadback i hi => ?host, fun r b s => ⟨fun ht => ?taken, fun ht => ?left⟩⟩
  case request =>
    exact (roleTakes_eq_turn (takes_device_eq_true.mpr (.inl ⟨hp, by rw [hc]; rfl⟩))).trans (turn_device_req hp hc)
  case reply =>
    exact (roleTakes_eq_turn (takes_host_eq_true.mpr (.inl ⟨hp, by rw [hc]; rfl⟩))).trans (turn_host_ack hp hc)
  case frameEnd =>
    exact (roleTakes_eq_turn (takes_device_eq_true.mpr (.inr ⟨⟨hp, by rw [hc]; rfl⟩, .inl rfl⟩))).trans
      (turn_device_rxTerm hp hc hn)
  case readbackEnd =>
    exact (roleTakes_eq_turn (takes_host_eq_true.mpr (.inr ⟨⟨hp, by rw [hc]; rfl⟩, .inl rfl⟩))).trans
      (turn_host_rbTerm hp hc)
  case wireValue =>
    rw [exec_of_decodeW8 hi, roleTakes_eq_turn ht, makeMove_turn_of_decode_ok hf hj]
  case device => exact exec_wireValue_of_not_takes hi fun b => takes_device_of_phase b hawait hrecv
  case host => exact exec_wireValue_of_not_takes hi fun b => takes_host_of_phase b hawait hreadback
  case taken => rw [makeMove_bench_w8, roleTakes_eq_turn ht]
  case left => rw [makeMove_bench_w8, roleTakes_of_not_takes ht]

end Sys2Proof.Proofs

/-! SUPPORT. The checksum engine: `T` is injective and linear one `CRC.BIT` at a time, and what a window's checksum owes to
each of its bytes (R132 to R135). -/

namespace Sys2Proof.Machine

/-! ## One `CRC.BIT` -/

/-- What a `CRC.BIT` exclusive-ors in for the bit that it shifts out. -/
def crcFeedback (out : Bool) : Byte := if out then Config.POLY else 0

theorem crcBit_eq_shift_xor_feedback (v : Byte) : crcBit v = v <<< 1 ^^^ crcFeedback v.msb := by
  cases h : v.msb <;> simp [crcBit, crcFeedback, h]

theorem crcBit_of_msb {v : Byte} (h : v.msb = true) : crcBit v = v <<< 1 ^^^ Config.POLY := if_pos h

theorem crcBit_of_not_msb {v : Byte} (h : v.msb = false) : crcBit v = v <<< 1 := if_neg (Bool.eq_false_iff.mp h)

theorem crcFeedback_xor (a b : Bool) : crcFeedback (a ^^ b) = crcFeedback a ^^^ crcFeedback b := by
  revert a b
  decide

/-- `POLY` is odd. -/
theorem crcFeedback_getElem_zero (out : Bool) : (crcFeedback out)[0] = out := by
  revert out
  decide

theorem crcBit_xor (u v : Byte) : crcBit (u ^^^ v) = crcBit u ^^^ crcBit v := by
  simp only [crcBit_eq_shift_xor_feedback, BitVec.msb_xor, crcFeedback_xor, BitVec.shiftLeft_xor_distrib]
  ac_rfl

/-- A 0 enters at bit 0, so the new low bit is the bit that was shifted out. -/
theorem crcBit_getElem_zero (v : Byte) : (crcBit v)[0] = v.msb := by
  simp [crcBit_eq_shift_xor_feedback, crcFeedback_getElem_zero]

theorem eq_of_msb_eq_of_shiftLeft_one_eq {u v : Byte} (hmsb : u.msb = v.msb) (hshift : u <<< 1 = v <<< 1) : u = v := by
  have hlow : 2 * u.toNat % 256 = 2 * v.toNat % 256 := by
    simpa [Nat.shiftLeft_eq, Nat.mul_comm] using congrArg BitVec.toNat hshift
  simp only [BitVec.msb_eq_decide, decide_eq_decide] at hmsb
  bv_omega

/-- A `CRC.BIT` can be undone: the low bit says whether `POLY` came in. -/
theorem crcBit_injective : Function.Injective crcBit := by
  intro u v h
  have hmsb : u.msb = v.msb := by simp only [← crcBit_getElem_zero, h]
  rw [crcBit_eq_shift_xor_feedback, crcBit_eq_shift_xor_feedback, hmsb, BitVec.xor_left_inj] at h
  exact eq_of_msb_eq_of_shiftLeft_one_eq hmsb h

/-! ## `T`: eight `CRC.BIT` steps -/

theorem crcShift8_eq_iterate (v : Byte) : crcShift8 v = crcBit^[8] v := rfl

@[simp] theorem crcShift8_zero : crcShift8 0 = 0 := rfl

/-- R135 (c), from one step. -/
theorem crcShift8_xor (u v : Byte) : crcShift8 (u ^^^ v) = crcShift8 u ^^^ crcShift8 v := by
  simp only [crcShift8, crcBit_xor]

/-- R135 (d), from one step. -/
theorem crcShift8_injective : Function.Injective crcShift8 := crcBit_injective.iterate 8

theorem crcShift8_eq_zero_iff {v : Byte} : crcShift8 v = 0 ↔ v = 0 :=
  crcShift8_injective.eq_iff' crcShift8_zero

/-! ## `CRC.BYTE` -/

theorem crcByte_left_injective (b : Byte) : Function.Injective fun acc => crcByte acc b :=
  fun _ _ h => (BitVec.xor_left_inj b).mp (crcShift8_injective h)

theorem crcByte_right_injective (acc : Byte) : Function.Injective (crcByte acc) :=
  fun _ _ h => (BitVec.xor_right_inj acc).mp (crcShift8_injective h)

theorem crcByte_xor (a b c d : Byte) : crcByte (a ^^^ b) (c ^^^ d) = crcByte a c ^^^ crcByte b d := by
  have hswap : a ^^^ b ^^^ (c ^^^ d) = (a ^^^ c) ^^^ (b ^^^ d) := by ac_rfl
  rw [crcByte, hswap, crcShift8_xor, crcByte, crcByte]

/-- The accumulator is cleared by its own value and by no other (R133). -/
theorem crcByte_eq_zero_iff {acc b : Byte} : crcByte acc b = 0 ↔ b = acc :=
  crcShift8_eq_zero_iff.trans (BitVec.xor_eq_zero_iff.trans eq_comm)

/-! ## The checksum of a sequence -/

/-- The bytes that follow carry a difference of the accumulator to the end. -/
theorem foldl_crcByte_injective (w : List Byte) : Function.Injective fun acc => w.foldl crcByte acc := by
  induction w with
  | nil => exact Function.injective_id
  | cons b w ih => exact ih.comp (crcByte_left_injective b)

theorem foldl_crcByte_zipWith_xor {v w : List Byte} (h : v.length = w.length) (a b : Byte) :
    (List.zipWith (· ^^^ ·) v w).foldl crcByte (a ^^^ b) = v.foldl crcByte a ^^^ w.foldl crcByte b := by
  induction v generalizing w a b with
  | nil =>
    obtain rfl := List.eq_nil_of_length_eq_zero h.symm
    rfl
  | cons x v ih =>
    obtain ⟨y, w, rfl⟩ := List.exists_cons_of_length_eq_add_one h.symm
    simp only [List.zipWith_cons_cons, List.foldl_cons, crcByte_xor]
    exact ih (Nat.succ.inj h) _ _

theorem checksum_append_cons (pre post : List Byte) (b : Byte) :
    checksum (pre ++ b :: post) = post.foldl crcByte (crcByte (checksum pre) b) := by
  simp [checksum]

/-- A window's checksum tells the values of any one of its bytes apart (R135 (e)). -/
theorem checksum_append_cons_injective (pre post : List Byte) :
    Function.Injective fun b => checksum (pre ++ b :: post) := by
  simp only [checksum_append_cons]
  exact (foldl_crcByte_injective post).comp (crcByte_right_injective (checksum pre))

theorem verdictOf_eq_ok_iff {r : Byte} : verdictOf r = .ok ↔ r = 0 := by
  unfold verdictOf
  split_ifs with hr
  · exact iff_of_true rfl hr
  · exact iff_of_false nofun hr

theorem verdictOf_of_ne_zero {r : Byte} (h : r ≠ 0) : verdictOf r = .corrupt := if_neg h

/-! ## The engine's operations -/

@[simp] theorem accOf_setAcc (r : Role) (v : Byte) (s : State) : accOf r (setAcc r v s) = v := by
  cases r <;> rfl

theorem exec_crcBit (r : Role) (s : State) : exec (.crcBit r) s = .next (setAcc r (crcBit (accOf r s)) s) := rfl

theorem exec_crcByte (r : Role) (b : Byte) (s : State) :
    exec (.crcByte r b) s = .next (setAcc r (crcByte (accOf r s) b) s) := rfl

theorem exec_crcClr (r : Role) (s : State) : exec (.crcClr r) s = .next (setAcc r Config.CRC_INIT s) := rfl

/-- The `op` field of a `CEC` word (R107). -/
@[simp] theorem cec_op_append (op : BitVec 2) (d : Byte) : (op ++ d).extractLsb' 8 2 = op :=
  BitVec.extractLsb'_append_eq_left

theorem decodeCec_crcClr (r : Role) (d : Byte) : decodeCec r ((0 : BitVec 2) ++ d) = .ok (.crcClr r) := by
  rw [decodeCec, cec_op_append]
  rfl

theorem decodeCec_crcBit (r : Role) (d : Byte) : decodeCec r ((2 : BitVec 2) ++ d) = .ok (.crcBit r) := by
  rw [decodeCec, cec_op_append]
  rfl

theorem decodeCec_reserved (r : Role) (d : Byte) : decodeCec r ((3 : BitVec 2) ++ d) = .error .cecReserved := by
  rw [decodeCec, cec_op_append]
  rfl

end Sys2Proof.Machine

namespace Sys2Proof.Proofs

open Sys2Proof Sys2Proof.Machine

/-- Settles O4, from one `CRC.BIT` and, for the basis values, by evaluation. -/
theorem shiftTableLinearInjective : Obligations.ShiftTableLinearInjective :=
  ⟨crcShift8_xor, fun _ _ h => crcShift8_injective h, by decide⟩

/-- Settles O5: the last byte meets the accumulator, and only equal values clear it. -/
theorem checksumVerifiesItself : Obligations.ChecksumVerifiesItself := by
  intro w c
  simp only [checksum_append]
  exact ⟨crcByte_eq_zero_iff.mpr rfl, crcByte_eq_zero_iff⟩

/-- Settles O6: both engines start from `CRC_INIT`, which is the zero of exclusive-or. -/
theorem checksumLinear : Obligations.ChecksumLinear :=
  fun _ _ h => foldl_crcByte_zipWith_xor h Config.CRC_INIT Config.CRC_INIT

/-- Settles O7: two windows that differ in one byte have different checksums, and only zero verifies. -/
theorem oneCorruptedByteIsDetected : Obligations.OneCorruptedByteIsDetected := by
  intro pre post x y hne hok
  refine verdictOf_of_ne_zero fun hy => hne (checksum_append_cons_injective pre post ?_)
  exact (verdictOf_eq_ok_iff.mp hok).trans hy.symm

/-- Settles O1, by bit 7 of the accumulator before the shift. -/
theorem crcBitStep : Obligations.CrcBitStep := by
  intro r d s
  refine ⟨decodeCec_crcBit r d, _, exec_crcBit r s, ?_⟩
  rw [accOf_setAcc]
  exact ⟨rfl, fun h => crcBit_of_msb (by rwa [BitVec.msb_eq_getLsbD_last]),
    fun h => crcBit_of_not_msb (by rwa [BitVec.msb_eq_getLsbD_last])⟩

/-- Settles O2: the eight steps of `T` are `CRC.BIT` iterated. -/
theorem crcByteAbsorbs : Obligations.CrcByteAbsorbs := by
  intro r b s
  refine ⟨decodeCec_crcByte r b, _, exec_crcByte r b s, ?_⟩
  rw [accOf_setAcc]
  exact ⟨rfl, crcShift8_eq_iterate _⟩

/-- Settles O3: the reserved code decodes to a reject, and the move that fetches it leaves the state alone (log 2). -/
theorem crcClearAndReserved : Obligations.CrcClearAndReserved := by
  intro r d s
  exact ⟨decodeCec_crcClr r d, exec_crcClr r s, accOf_setAcc r _ s, decodeCec_reserved r d,
    makeMove_of_decode_error (e := .cec r _) rfl (decodeCec_reserved r d)⟩

end Sys2Proof.Proofs

/-! SUPPORT. The storage controller's commands one by one, and the erase pass turn by turn (41_nv_mirror.md,
R152 to R157, R211). -/

namespace Sys2Proof.Machine

variable {s : State}

/-! ## A command that changes a cell, inside the array and outside it -/

theorem nvRefuses_of_le {a : Cnt} (ha : Config.CAP ≤ a.toNat) : nvRefuses a = true := decide_eq_true ha

theorem nvRefuses_of_lt {a : Cnt} (ha : a.toNat < Config.CAP) : nvRefuses a = false := decide_eq_false ha.not_ge

/-- An address at or above `CAP` is refused: `NVFAULT` is set and that is all (R62, R156). -/
theorem nvChange_of_le {a : Cnt} (f : NvCell → NvCell) (d : DeviceInst) (ha : Config.CAP ≤ a.toNat) :
    nvChange a f d = { d with nvfault := true } :=
  if_pos (nvRefuses_of_le ha)

/-- Inside the array a command changes the cells and no register (R153 to R155). -/
theorem nvChange_of_lt {a : Cnt} (f : NvCell → NvCell) (d : DeviceInst) (ha : a.toNat < Config.CAP) :
    nvChange a f d = { d with nv := (nvChange a f d).nv } := by
  unfold nvChange
  rw [nvRefuses_of_lt ha]
  rfl

theorem nvCell_nvChange_of_lt {a : Cnt} (f : NvCell → NvCell) (d : DeviceInst) (ha : a.toNat < Config.CAP) (x : Nat) :
    nvCell (nvChange a f d).nv x = if x = a.toNat then f (nvCell d.nv x) else nvCell d.nv x := by
  split
  · next hx => rw [hx, nvCell_nvChange_self f d ha]
  · next hx => exact nvCell_nvChange_of_ne f d hx

/-- What a plain write leaves in a cell of the array, by the tag and the byte it finds there (R153). -/
theorem writtenCell_nvCell (m : NvMem) (a : Nat) (b : Byte) :
    writtenCell a (nvCell m a) b =
      if nvTag m a = .erased then programmedCell b else programmedCell (Config.nvOverwrite (nvVal m a) b) := rfl

/-! ## The commands of the port -/

/-- The state after a storage command that makes `f` of the cell at `a`. -/
def afterNvChange (a : Cnt) (f : NvCell → NvCell) (s : State) : State :=
  setReply (nvReply a .none) (setDev (nvChange a f s.dev) s)

theorem exec_nvRead (a : Cnt) (s : State) : exec (.nvRead a) s =
    .next (setReply (nvReply a (.byte (nvVal s.dev.nv a.toNat))) (setDev (nvReadEffect a s.dev) s)) := rfl

theorem exec_nvWrite (a : Cnt) (b : Byte) (s : State) :
    exec (.nvWrite a b) s = .next (afterNvChange a (writtenCell a.toNat · b) s) := rfl

theorem exec_nvErase (a : Cnt) (s : State) :
    exec (.nvErase a) s = .next (afterNvChange a (fun _ => erasedCell) s) := rfl

theorem exec_nvErwr (a : Cnt) (b : Byte) (s : State) :
    exec (.nvErwr a b) s = .next (afterNvChange a (fun _ => programmedCell b) s) := rfl

@[simp] theorem afterNvChange_dev (a : Cnt) (f : NvCell → NvCell) (s : State) :
    (afterNvChange a f s).dev = nvChange a f s.dev := rfl

/-- What a command leaves after an erase at its address does not depend on the cell before the erase (R155). -/
theorem nvCell_afterNvChange_of_erased (a : Cnt) (f : NvCell → NvCell) (s : State) (x : Nat) :
    nvCell (afterNvChange a f (afterNvChange a (fun _ => erasedCell) s)).dev.nv x =
      nvCell (afterNvChange a (fun _ => f erasedCell) s).dev.nv x := by
  simp only [afterNvChange_dev, nvCell_nvChange]
  split <;> rfl

theorem nvReply_of_le {a : Cnt} (r : Reply) (ha : Config.CAP ≤ a.toNat) : nvReply a r = .refused :=
  if_pos (nvRefuses_of_le ha)

theorem nvReply_of_lt {a : Cnt} (r : Reply) (ha : a.toNat < Config.CAP) : nvReply a r = r :=
  if_neg (Bool.eq_false_iff.mp (nvRefuses_of_lt ha))

/-- The state after a refused command: a refusal for an answer, and `NVFAULT` (R156, log 4). -/
def afterNvRefusal (s : State) : State := { s with dev := { s.dev with nvfault := true }, reply := .refused }

theorem afterNvChange_of_le {a : Cnt} (f : NvCell → NvCell) (ha : Config.CAP ≤ a.toNat) :
    afterNvChange a f s = afterNvRefusal s := by
  rw [afterNvChange, nvChange_of_le f s.dev ha, nvReply_of_le .none ha]
  rfl

theorem afterNvChange_of_lt {a : Cnt} (f : NvCell → NvCell) (ha : a.toNat < Config.CAP) :
    afterNvChange a f s =
      { s with dev := { s.dev with nv := (afterNvChange a f s).dev.nv }, reply := .none } := by
  conv_lhs => rw [afterNvChange, nvChange_of_lt f s.dev ha, nvReply_of_lt .none ha]
  rfl

theorem exec_nvRead_of_lt {a : Cnt} (ha : a.toNat < Config.CAP) :
    exec (.nvRead a) s = .next { s with reply := .byte (nvVal s.dev.nv a.toNat) } := by
  have hkeep : nvReadEffect a s.dev = s.dev := if_neg (Bool.eq_false_iff.mp (nvRefuses_of_lt ha))
  rw [exec_nvRead, hkeep, nvReply_of_lt _ ha]
  rfl

/-- A command of the port is refused outside the array, whichever it is (R156). -/
theorem exec_storage_of_le {a : Cnt} {b : Byte} (ha : Config.CAP ≤ a.toNat) {i : Instr}
    (hi : i ∈ [Instr.nvRead a, .nvWrite a b, .nvErase a, .nvErwr a b]) : exec i s = .next (afterNvRefusal s) := by
  simp only [List.mem_cons, List.not_mem_nil, or_false] at hi
  rcases hi with rfl | rfl | rfl | rfl
  · have hfault : nvReadEffect a s.dev = { s.dev with nvfault := true } := if_pos (nvRefuses_of_le ha)
    rw [exec_nvRead, hfault, nvReply_of_le _ ha]
    rfl
  · rw [exec_nvWrite, afterNvChange_of_le _ ha]
  · rw [exec_nvErase, afterNvChange_of_le _ ha]
  · rw [exec_nvErwr, afterNvChange_of_le _ ha]

/-! ## The words of the port: a command without a data byte ignores that field (R106) -/

theorem decodeNvc_nvRead (a : Cnt) (d : Byte) : decodeNvc (word22 0 a d) = .ok (.nvRead a) := by
  simp [decodeNvc]

theorem decodeNvc_nvErase (a : Cnt) (d : Byte) : decodeNvc (word22 2 a d) = .ok (.nvErase a) := by
  simp [decodeNvc]

/-! ## The erase pass -/

/-- A turn of an erasing device erases the cell at `EA` (R211). -/
theorem turn_device_erase (hp : s.dev.phase = .dErase) (hea : s.dev.ea.toNat < Config.CAP) :
    makeMove (.turn .device) s = .next { s with
      dev := { s.dev with nv := (nvEraseCell s.dev.ea s.dev).nv, ea := s.dev.ea + 1 } } := by
  have he : enabled .dsErase s = true := by simp [enabled, hp, hea]
  refine (turn_device_of_enabled rfl he).trans ((whenEnabled_of_enabled _ he).trans ?_)
  rw [nvEraseCell_eq, nvChange_of_lt _ s.dev hea]
  rfl

/-- An erasing device with every cell below `EA` erased erases those from `EA` up to `r`, one a turn (R157, R211). -/
theorem erase_cells {k : Nat} {r : Cnt} (hp : s.dev.phase = .dErase) (hr : r.toNat = s.dev.ea.toNat + k)
    (hend : r.toNat ≤ Config.CAP) (he : erasedFrom s.dev.nv 0 s.dev.ea.toNat) :
    ∃ m, erasedFrom m 0 r.toNat ∧
      runMoves (turns .device k) s = .next { s with dev := { s.dev with nv := m, ea := r } } := by
  induction k generalizing s with
  | zero =>
    obtain rfl : r = s.dev.ea := BitVec.eq_of_toNat_eq hr
    exact ⟨s.dev.nv, he, rfl⟩
  | succ k ih =>
    have hea : s.dev.ea.toNat < Config.CAP := by omega
    have hsucc : (s.dev.ea + 1).toNat = s.dev.ea.toNat + 1 := cnt_toNat_add_one hea.le
    have hnext : erasedFrom (nvEraseCell s.dev.ea s.dev).nv 0 (s.dev.ea + 1).toNat :=
      hsucc ▸ erasedFrom_nvEraseCell hea he
    rw [runMoves_turns_succ (turn_device_erase hp hea)]
    exact ih hp (show r.toNat = (s.dev.ea + 1).toNat + k by omega) hnext

end Sys2Proof.Machine

namespace Sys2Proof.Proofs

open Sys2Proof Sys2Proof.Machine

/-- Settles O57: an erase pass starts with no cell erased yet, and each of its turns adds one. -/
theorem erasePassClearsEveryCell : Obligations.ErasePassClearsEveryCell := by
  intro s hp hea
  have hea0 : s.dev.ea.toNat = 0 := by rw [hea]; rfl
  obtain ⟨m, herased, hrun⟩ := erase_cells (k := Config.CAP) (r := capCnt) hp (by rw [hea0]; rfl) le_rfl
    (hea0 ▸ erasedFrom_empty s.dev.nv 0)
  exact ⟨_, hrun, rfl, fun a ha => herased a a.zero_le ha, rfl⟩

/-- Settles O8, by the range of the address and, inside the array, by the tag of the cell. -/
theorem nvWriteProgramsCell : Obligations.NvWriteProgramsCell := by
  intro a b s
  refine ⟨decode_encode (i := .nvWrite a b) rfl, ?_⟩
  split
  · next ha => exact exec_storage_of_le (b := b) ha (by simp)
  · next ha =>
    have hlt := not_le.mp ha
    refine ⟨_, exec_nvWrite a b s, afterNvChange_of_lt _ hlt, fun x => ?_⟩
    rw [afterNvChange_dev, nvCell_nvChange_of_lt _ _ hlt]
    split
    · next hx => rw [hx, writtenCell_nvCell]; rfl
    · rfl

/-- Settles O9: what an erase leaves depends on nothing that it finds, so a second one leaves the same. -/
theorem nvEraseResetsCell : Obligations.NvEraseResetsCell := by
  intro a d s ha
  exact ⟨decodeNvc_nvErase a d, _, exec_nvErase a s, afterNvChange_of_lt _ ha, nvCell_nvChange_of_lt _ _ ha,
    _, exec_nvErase a _, nvCell_afterNvChange_of_erased a _ s⟩

/-- Settles O10: a plain write finds the cell that the erase left, and programs it exactly. -/
theorem nvEraseWriteProgramsCell : Obligations.NvEraseWriteProgramsCell := by
  intro a b s
  refine ⟨decode_encode (i := .nvErwr a b) rfl, ?_⟩
  split
  · next ha => exact exec_storage_of_le (b := b) ha (by simp)
  · next ha =>
    have hlt := not_le.mp ha
    refine ⟨_, _, _, exec_nvErwr a b s, afterNvChange_of_lt _ hlt, nvCell_nvChange_of_lt _ _ hlt, exec_nvErase a s,
      exec_nvWrite a b _, fun x => ?_⟩
    rw [nvCell_afterNvChange_of_erased, writtenCell_erasedCell]

/-- Settles O11: NV.READ inside the array, and all four commands outside it. -/
theorem nvReadsAndRefusals : Obligations.NvReadsAndRefusals :=
  fun a d _ => ⟨decodeNvc_nvRead a d, exec_nvRead_of_lt, fun ha _ hi => exec_storage_of_le (b := d) ha hi⟩

end Sys2Proof.Proofs

/-! SUPPORT. The codec and the injector as units: what FC.ENCODE and FC.CLASSIFY answer, and FI.APPLY by whether its
configuration is legal (42_frame_codec_fault_injector.md, R171 to R177). -/

namespace Sys2Proof.Machine

variable {s : State}

/-! ## The codec -/

theorem exec_fcEncode_of_le {p : List Byte} (hp : p.length ≤ Config.MAXPAY) :
    exec (.fcEncode p) s = .next (setHost (encodeInto p s.host) s) :=
  if_pos hp

theorem exec_fcClassify (b : Byte) (s : State) :
    exec (.fcClassify b) s = .next (setReply (.frameClass (classify b)) s) := rfl

/-! ## Legal and illegal configurations -/

/-- The legal configurations: `OFF`, a `FLIP` of some bit of a byte of the frame, a `REPLACE` of a byte of the frame
(R177). -/
theorem fiLegal_eq_true_iff {mode : BitVec 2} {offset flen : Cnt} {value : Byte} :
    fiLegal mode offset value flen = true ↔
      mode = fiOff ∨ (mode = fiFlip ∧ offset.toNat < flen.toNat ∧ value ≠ 0x00) ∨
        (mode = fiReplace ∧ offset.toNat < flen.toNat) := by
  unfold fiLegal
  split_ifs with hoff hflip hreplace
  · simp [hoff]
  · simp [hflip, fiFlip, fiOff, fiReplace]
  · simp [hreplace, fiFlip, fiOff, fiReplace]
  · simp [hoff, hflip, hreplace]

/-- The illegal configurations: the reserved mode, a `FLIP` or a `REPLACE` past the end of the frame, and a `FLIP` of no
bit (R177). -/
theorem fiLegal_eq_false_iff {mode : BitVec 2} {offset flen : Cnt} {value : Byte} :
    fiLegal mode offset value flen = false ↔
      mode = 3 ∨ (mode = fiFlip ∧ (flen.toNat ≤ offset.toNat ∨ value = 0x00)) ∨
        (mode = fiReplace ∧ flen.toNat ≤ offset.toNat) := by
  have hmode : mode = fiOff ∨ mode = fiFlip ∨ mode = fiReplace ∨ mode = 3 := by decide +revert
  rw [← Bool.not_eq_true, fiLegal_eq_true_iff]
  rcases hmode with rfl | rfl | rfl | rfl
  · simp [fiOff, fiFlip, fiReplace]
  · simp [fiOff, fiFlip, fiReplace, imp_iff_not_or]
  · simp [fiOff, fiFlip, fiReplace]
  · simp [fiOff, fiFlip, fiReplace]

theorem fiMayRaise_eq_true_iff {h : HostInst} : fiMayRaise h = true ↔ h.phase ≠ .hFailed ∧ h.ti = 0 := by
  simp [fiMayRaise]

/-! ## The injector -/

theorem fiApplied_off (offset : Cnt) (value : Byte) (frame : Buf) :
    fiApplied fiOff offset value frame = some frame := rfl

theorem fiApplied_flip {offset : Cnt} {frame : Buf} {old : Byte} (value : Byte)
    (h : tabGet frame offset.toNat = some old) :
    fiApplied fiFlip offset value frame = some (tabSet frame offset.toNat (old ^^^ value)) := by
  rw [fiApplied, if_pos rfl, h, Option.map_some]

theorem fiApplied_replace (offset : Cnt) (value : Byte) (frame : Buf) :
    fiApplied fiReplace offset value frame = some (tabSet frame offset.toNat value) := rfl

/-- Under a legal configuration FI.APPLY changes the frame and nothing else, in every phase (R176). -/
theorem exec_fiApply_of_legal {mode : BitVec 2} {offset : Cnt} {value : Byte} {f : Buf}
    (hlegal : fiLegal mode offset value s.host.flen = true)
    (hf : fiApplied mode offset value s.host.frame = some f) :
    exec (.fiApply mode offset value) s = .next (setHost { s.host with frame := f } s) := by
  have he : enabled (.fiApply mode offset value) s = true := by simp [enabled, hlegal]
  refine (whenEnabled_of_enabled _ he).trans ?_
  rw [if_pos hlegal, hf]

/-- An illegal configuration raises FiConfig where that may be raised (R177, log 14). -/
theorem exec_fiApply_of_illegal {mode : BitVec 2} {offset : Cnt} {value : Byte}
    (hillegal : fiLegal mode offset value s.host.flen = false) (hraise : fiMayRaise s.host = true) :
    exec (.fiApply mode offset value) s = .next (raiseHost .fiConfig s) := by
  have he : enabled (.fiApply mode offset value) s = true := by simp [enabled, hraise]
  refine (whenEnabled_of_enabled _ he).trans ?_
  rw [if_neg (Bool.eq_false_iff.mp hillegal)]

/-- An illegal configuration is no operation on top of a failure and once a byte of the frame has been sent (R268, R269,
log 14). -/
theorem not_enabled_fiApply {mode : BitVec 2} {offset : Cnt} {value : Byte}
    (hillegal : fiLegal mode offset value s.host.flen = false) (hraise : fiMayRaise s.host = false) :
    enabled (.fiApply mode offset value) s = false := by
  simp [enabled, hillegal, hraise]

end Sys2Proof.Machine

namespace Sys2Proof.Proofs

open Sys2Proof Sys2Proof.Machine

/-- Settles O12: the length of the longest payload and its two framing bytes still fit `FLEN`. -/
theorem fcEncodeBuildsFrame : Obligations.FcEncodeBuildsFrame :=
  fun p s hp => ⟨_, exec_fcEncode_of_le hp, toNat_encodeInto_flen hp s.host, tabGet_encodeInto p s.host, rfl⟩

/-- Settles O13: `classify` compares with the terminator alone. -/
theorem fcClassifySplitsBytes : Obligations.FcClassifySplitsBytes :=
  exec_fcClassify

/-- Settles O14, mode by mode; what the frame reads as is the table's rule for one entry. -/
theorem fiApplyChangesOneByte : Obligations.FiApplyChangesOneByte := by
  intro o v s
  refine ⟨?off, fun old ho hv hold => ?flip, fun ho => ?replace⟩
  case off => exact exec_fiApply_of_legal (fiLegal_eq_true_iff.mpr (.inl rfl)) (fiApplied_off o v _)
  case flip =>
    have hlegal : fiLegal fiFlip o v s.host.flen = true := fiLegal_eq_true_iff.mpr (.inr (.inl ⟨rfl, ho, hv⟩))
    exact ⟨_, exec_fiApply_of_legal hlegal (fiApplied_flip v hold), rfl, fun k => tabGet_tabSet _ _ k _⟩
  case replace =>
    have hlegal : fiLegal fiReplace o v s.host.flen = true := fiLegal_eq_true_iff.mpr (.inr (.inr ⟨rfl, ho⟩))
    exact ⟨_, exec_fiApply_of_legal hlegal (fiApplied_replace o v _), rfl, fun k => tabGet_tabSet _ _ k _⟩

/-- Settles O15: the configurations listed are the ones that are not legal, and whether FiConfig is raised is
`fiMayRaise`. -/
theorem fiApplyIllegalRaisesFiConfig : Obligations.FiApplyIllegalRaisesFiConfig := by
  intro m o v s hconfig
  have hillegal : fiLegal m o v s.host.flen = false := fiLegal_eq_false_iff.mpr hconfig
  refine ⟨fun hp hti => ?raised, fun hkept => ?kept⟩
  case raised => exact exec_fiApply_of_illegal hillegal (fiMayRaise_eq_true_iff.mpr ⟨hp, hti⟩)
  case kept =>
    have hraise : fiMayRaise s.host = false := by
      rw [← Bool.not_eq_true, fiMayRaise_eq_true_iff]
      exact fun ⟨hp, hti⟩ => hkept.elim hp (· hti)
    exact exec_of_not_enabled (not_enabled_fiApply hillegal hraise)

end Sys2Proof.Proofs

/-! SUPPORT. The handshake of both roles: when each of its operations is enabled, and the state each leaves
(43_handshake.md, R192 to R199). -/

namespace Sys2Proof.Machine

variable {s : State} {b : Byte} {rest : List Byte}

/-! ## The byte at the head of a channel -/

theorem devSees_eq_true_iff {p : DPhase} : devSees p b s = true ↔ s.dev.phase = p ∧ s.h2d.head? = some b := by
  simp [devSees]

theorem hostSees_eq_true_iff {p : HPhase} : hostSees p b s = true ↔ s.host.phase = p ∧ s.d2h.head? = some b := by
  simp [hostSees]

theorem devSees_of_cons {p : DPhase} (hp : s.dev.phase = p) (hc : s.h2d = b :: rest) : devSees p b s = true :=
  devSees_eq_true_iff.mpr ⟨hp, hc ▸ rfl⟩

theorem hostSees_of_cons {p : HPhase} (hp : s.host.phase = p) (hc : s.d2h = b :: rest) : hostSees p b s = true :=
  hostSees_eq_true_iff.mpr ⟨hp, hc ▸ rfl⟩

theorem rxH2D_of_cons (hc : s.h2d = b :: rest) : rxH2D s = { s with h2d := rest } := by
  rw [rxH2D, hc, List.tail_cons]

theorem rxD2H_of_cons (hc : s.d2h = b :: rest) : rxD2H s = { s with d2h := rest } := by
  rw [rxD2H, hc, List.tail_cons]

/-! ## When an operation of the handshake is enabled -/

theorem enabled_hsDArm_iff : enabled .hsDArm s = true ↔ s.dev.phase = .dErase ∧ s.dev.ea.toNat = Config.CAP := by
  simp [enabled]

theorem enabled_hsDSkip_iff : enabled (.hsDSkip b) s = true ↔ devSees .dAwait b s = true ∧ b ≠ Config.TOK_REQ := by
  simp [enabled]

theorem enabled_hsDReq_iff : enabled .hsDReq s = true ↔ devSees .dAwait Config.TOK_REQ s = true := Iff.rfl

theorem enabled_hsDAck_iff : enabled .hsDAck s = true ↔ s.dev.phase = .dReply := beq_iff_eq

theorem enabled_hsHReq_iff : enabled .hsHReq s = true ↔ s.host.phase = .hReq := beq_iff_eq

theorem enabled_hsHAck_iff : enabled .hsHAck s = true ↔ hostSees .hAwait Config.TOK_ACK s = true := Iff.rfl

theorem enabled_hsHNak_iff : enabled (.hsHNak b) s = true ↔ hostSees .hAwait b s = true ∧ b ≠ Config.TOK_ACK := by
  simp [enabled]

theorem enabled_hsHTimeout_iff : enabled .hsHTimeout s = true ↔ s.host.phase = .hAwait ∧ s.d2h = [] := by
  simp [enabled]

/-- The device's `SEQ` word is read as one of its transitions exactly where that is enabled (R109). -/
theorem decode_devWord_iff_enabled {i : Instr} (hi : isDeviceOp i = true) :
    decode (.dev (devWord s)) = .ok i ↔ enabled i s = true :=
  decodeDev_devWord_iff.trans (and_iff_right hi)

/-! ## What an enabled operation of the handshake leaves -/

theorem exec_hsDArm_of_enabled (he : enabled .hsDArm s = true) :
    exec .hsDArm s = .next { s with dev := { s.dev with phase := .dAwait, hs := .awaitPeer } } :=
  whenEnabled_of_enabled _ he

theorem exec_hsDSkip_of_enabled (he : enabled (.hsDSkip b) s = true) : exec (.hsDSkip b) s = .next (rxH2D s) :=
  whenEnabled_of_enabled _ he

theorem exec_hsDAck_of_enabled (he : enabled .hsDAck s = true) :
    exec .hsDAck s = .next { s with
      d2h := s.d2h ++ [Config.TOK_ACK]
      dev := { s.dev with phase := .dRecv, hs := .synced, n := 0, size := 0, vdone := false, vok := false } } :=
  whenEnabled_of_enabled _ he

theorem exec_hsHReq_of_enabled (he : enabled .hsHReq s = true) :
    exec .hsHReq s = .next { s with
      h2d := s.h2d ++ [Config.TOK_REQ], host := { s.host with phase := .hAwait, hs := .awaitPeer } } :=
  whenEnabled_of_enabled _ he

theorem exec_hsHNak_of_enabled (he : enabled (.hsHNak b) s = true) :
    exec (.hsHNak b) s = .next (raiseHost .handshakeMismatch (rxD2H s)) :=
  whenEnabled_of_enabled _ he

theorem exec_hsHTimeout_of_enabled (he : enabled .hsHTimeout s = true) :
    exec .hsHTimeout s = .next (raiseHost .handshakeTimeout s) :=
  whenEnabled_of_enabled _ he

/-- The two handshake kinds are the host failures that fail the handshake state too (R267). -/
theorem raiseHost_handshake {k : ErrKind} (hk : k = .handshakeTimeout ∨ k = .handshakeMismatch) :
    raiseHost k s = { s with host := { s.host with phase := .hFailed, hs := .failed, hfault := k.code } } := by
  rw [raiseHost, if_pos hk]

/-! ## The device is armed over an erased array -/

/-- At the end of a good device's erase pass every cell is erased (R61, R192). -/
theorem DeviceGood.nvTag_of_erasePass_done {d : DeviceInst} (hg : DeviceGood d) (hp : d.phase = .dErase)
    (hea : d.ea.toNat = Config.CAP) {a : Nat} (ha : a < Config.CAP) : nvTag d.nv a = .erased := by
  have hcell : nvCell d.nv a = erasedCell := hg.erasing hp a (Nat.zero_le a) (hea ▸ ha)
  rw [nvTag, hcell]
  rfl

end Sys2Proof.Machine

namespace Sys2Proof.Proofs

open Sys2Proof Sys2Proof.Machine

/-- Settles O17: what a good device has erased so far is, at the end of the pass, the whole array. -/
theorem deviceArms : Obligations.DeviceArms :=
  fun _ => ⟨(decode_devWord_iff_enabled rfl).trans enabled_hsDArm_iff, fun hp hea =>
    ⟨exec_hsDArm_of_enabled (enabled_hsDArm_iff.mpr ⟨hp, hea⟩), fun hg _ => hg.nvTag_of_erasePass_done hp hea⟩⟩

/-- Settles O18: a byte other than the token enables this transition alone, and taking it is all that it does. -/
theorem deviceSkipsOtherBytes : Obligations.DeviceSkipsOtherBytes := by
  refine fun b s => ⟨?_, fun rest hp hc hb => ?_⟩
  · rw [decode_devWord_iff_enabled rfl, enabled_hsDSkip_iff, devSees_eq_true_iff, and_assoc]
    rfl
  · have he : enabled (.hsDSkip b) s = true := enabled_hsDSkip_iff.mpr ⟨devSees_of_cons hp hc, hb⟩
    rw [exec_hsDSkip_of_enabled he, rxH2D_of_cons hc]

/-- Settles O19: the device's turn before the token is this operation. -/
theorem deviceTakesRequest : Obligations.DeviceTakesRequest := by
  refine fun s => ⟨?_, fun rest hp hc => ?_⟩
  · rw [decode_devWord_iff_enabled rfl, enabled_hsDReq_iff, devSees_eq_true_iff]
    rfl
  · have he : enabled .hsDReq s = true := enabled_hsDReq_iff.mpr (devSees_of_cons hp hc)
    rw [← turn_device_of_enabled rfl he, turn_device_req hp hc]

/-- Settles O20: the phase alone enables the transition. -/
theorem deviceAcknowledges : Obligations.DeviceAcknowledges := by
  intro s hp
  have he : enabled .hsDAck s = true := enabled_hsDAck_iff.mpr hp
  exact ⟨decodeDev_devWord_of_enabled rfl he, exec_hsDAck_of_enabled he⟩

/-- Settles O21: the phase alone enables the step, whatever `D2H` holds. -/
theorem hostRequests : Obligations.HostRequests := by
  intro s hp
  have he : enabled .hsHReq s = true := enabled_hsHReq_iff.mpr hp
  exact ⟨decodeHost_hostWord_none_of_enabled rfl he, exec_hsHReq_of_enabled he⟩

/-- Settles O22: the host's turn before the reply token is this operation. -/
theorem hostTakesReply : Obligations.HostTakesReply := by
  intro rest s hp hc
  have he : enabled .hsHAck s = true := enabled_hsHAck_iff.mpr (hostSees_of_cons hp hc)
  refine ⟨decodeHost_hostWord_none_of_enabled rfl he, ?_⟩
  rw [← turn_host_of_enabled rfl he, turn_host_ack hp hc]

/-- Settles O23: a mismatch is the host's own step, a time-out its reaction to the event; both are handshake failures. -/
theorem handshakeFailures : Obligations.HandshakeFailures := by
  refine ⟨fun b rest s hp hc hb => ?mismatch, fun s hp hc => ?timeout⟩
  case mismatch =>
    have he : enabled (.hsHNak b) s = true := enabled_hsHNak_iff.mpr ⟨hostSees_of_cons hp hc, hb⟩
    refine ⟨decodeHost_hostWord_none_of_enabled rfl he, ?_⟩
    rw [exec_hsHNak_of_enabled he, rxD2H_of_cons hc, raiseHost_handshake (.inr rfl)]
    rfl
  case timeout =>
    have he : enabled .hsHTimeout s = true := enabled_hsHTimeout_iff.mpr ⟨hp, hc⟩
    refine ⟨decodeHost_hostWord_some_of_enabled (e := .timeout) (.inl rfl) he, ?_⟩
    rw [exec_hsHTimeout_of_enabled he, raiseHost_handshake (.inl rfl)]
    rfl

end Sys2Proof.Proofs

/-! SUPPORT. The link session's operations of both roles: when each is enabled, and the state each leaves
(44_link_session.md, R211 to R229). -/

namespace Sys2Proof.Machine

variable {s : State} {b : Byte} {rest : List Byte}

/-! ## When a transition of the device is enabled -/

theorem enabled_dsErase_iff :
    enabled .dsErase s = true ↔ s.dev.phase = .dErase ∧ s.dev.ea.toNat < Config.CAP := by
  simp [enabled]

theorem enabled_dsRxData_iff :
    enabled (.dsRxData b) s = true ↔
      (s.dev.phase = .dRecv ∧ s.h2d.head? = some b) ∧ b ≠ Config.TERM ∧ s.dev.n.toNat < Config.CAP := by
  simp [enabled, devSees_eq_true_iff, and_assoc]

theorem enabled_dsRxTerm_iff :
    enabled .dsRxTerm s = true ↔
      (s.dev.phase = .dRecv ∧ s.h2d.head? = some Config.TERM) ∧ 1 ≤ s.dev.n.toNat := by
  rw [enabled, Bool.and_eq_true, devSees_eq_true_iff, decide_eq_true_iff]

theorem enabled_dsRxOver_iff :
    enabled (.dsRxOver b) s = true ↔
      (s.dev.phase = .dRecv ∧ s.h2d.head? = some b) ∧ b ≠ Config.TERM ∧ s.dev.n.toNat = Config.CAP := by
  simp [enabled, devSees_eq_true_iff, and_assoc]

theorem enabled_dsRxEmpty_iff :
    enabled .dsRxEmpty s = true ↔
      (s.dev.phase = .dRecv ∧ s.h2d.head? = some Config.TERM) ∧ s.dev.n.toNat = 0 := by
  rw [enabled, Bool.and_eq_true, devSees_eq_true_iff, decide_eq_true_iff]

theorem enabled_dsVerify_iff : enabled .dsVerify s = true ↔ s.dev.phase = .dVerify := beq_iff_eq

theorem enabled_dsCommit_iff : enabled .dsCommit s = true ↔ s.dev.phase = .dCommit := beq_iff_eq

theorem enabled_dsRbByte_iff :
    enabled .dsRbByte s = true ↔ s.dev.phase = .dReadback ∧ s.dev.ri.toNat ≤ s.dev.size.toNat := by
  simp [enabled]

theorem enabled_dsRbTerm_iff :
    enabled .dsRbTerm s = true ↔ s.dev.phase = .dReadback ∧ s.dev.ri.toNat = s.dev.size.toNat + 1 := by
  simp [enabled]

/-! ## When a step or a reaction of the host is enabled -/

theorem enabled_lsStart_iff {p : List Byte} {m : BitVec 2} {o : Cnt} {v : Byte} :
    enabled (.lsStart p m o v) s = true ↔
      s.host.phase = .hIdle ∨ s.host.phase = .hDone ∨ s.host.phase = .hFailed := by
  simp [enabled, or_assoc]

theorem enabled_lsEncode_iff : enabled .lsEncode s = true ↔ s.host.phase = .hEncode := beq_iff_eq

theorem enabled_lsTx_iff : enabled .lsTx s = true ↔ s.host.phase = .hSend := beq_iff_eq

theorem enabled_lsRbData_iff :
    enabled (.lsRbData b) s = true ↔
      (s.host.phase = .hReadback ∧ s.d2h.head? = some b) ∧ b ≠ Config.TERM ∧ s.host.rn.toNat < Config.CAP := by
  simp [enabled, hostSees_eq_true_iff, and_assoc]

theorem enabled_lsRbTerm_iff :
    enabled .lsRbTerm s = true ↔ s.host.phase = .hReadback ∧ s.d2h.head? = some Config.TERM :=
  hostSees_eq_true_iff

theorem enabled_lsRbOver_iff :
    enabled (.lsRbOver b) s = true ↔
      (s.host.phase = .hReadback ∧ s.d2h.head? = some b) ∧ b ≠ Config.TERM ∧ s.host.rn.toNat = Config.CAP := by
  simp [enabled, hostSees_eq_true_iff, and_assoc]

theorem enabled_lsRbTimeout_iff :
    enabled .lsRbTimeout s = true ↔ s.host.phase = .hReadback ∧ s.d2h = [] := by
  simp [enabled]

theorem enabled_lsLinkfail_iff :
    enabled .lsLinkfail s = true ↔
      s.host.phase = .hReq ∨ s.host.phase = .hAwait ∨ s.host.phase = .hSend ∨ s.host.phase = .hReadback := by
  simp [enabled, or_assoc]

/-! ## What an enabled transition of the device leaves -/

theorem exec_dsErase_of_enabled (he : enabled .dsErase s = true) :
    exec .dsErase s = .next (setDev { nvEraseCell s.dev.ea s.dev with ea := s.dev.ea + 1 } s) :=
  whenEnabled_of_enabled _ he

theorem exec_dsRxData_of_enabled (he : enabled (.dsRxData b) s = true) :
    exec (.dsRxData b) s = .next (setDev (storedByte b s.dev) (rxH2D s)) :=
  whenEnabled_of_enabled _ he

theorem exec_dsRxTerm_of_enabled (he : enabled .dsRxTerm s = true) :
    exec .dsRxTerm s = .next (setDev (closedWindow s.dev) (rxH2D s)) :=
  whenEnabled_of_enabled _ he

theorem exec_dsRxOver_of_enabled (he : enabled (.dsRxOver b) s = true) :
    exec (.dsRxOver b) s = .next (raiseDevice .payloadTooLarge (rxH2D s)) :=
  whenEnabled_of_enabled _ he

theorem exec_dsRxEmpty_of_enabled (he : enabled .dsRxEmpty s = true) :
    exec .dsRxEmpty s = .next (raiseDevice .emptyFrame (rxH2D s)) :=
  whenEnabled_of_enabled _ he

theorem exec_dsVerify_of_enabled {w : List Byte} (he : enabled .dsVerify s = true) (hw : rxWindow s.dev = some w) :
    exec .dsVerify s =
      .next { s with dev := verifiedWindow w s.dev, diag := diagOf (verdictOf (checksum w)) } := by
  rw [← turn_device_of_enabled rfl he, turn_device_verify (enabled_dsVerify_iff.mp he) hw]

theorem exec_dsCommit_of_enabled {q : List Byte} (he : enabled .dsCommit s = true) (hq : rxPayload s.dev = some q) :
    exec .dsCommit s = .next (setDev (committedPayload q s.dev) s) := by
  rw [← turn_device_of_enabled rfl he, turn_device_commit (enabled_dsCommit_iff.mp he) hq]
  rfl

theorem exec_dsRbByte_of_enabled (he : enabled .dsRbByte s = true) (hb : nvReadByte s.dev.ri s.dev = some b) :
    exec .dsRbByte s = .next (txD2H b (setDev { s.dev with ri := s.dev.ri + 1 } s)) := by
  refine (whenEnabled_of_enabled _ he).trans ?_
  rw [hb]

theorem exec_dsRbTerm_of_enabled (he : enabled .dsRbTerm s = true) :
    exec .dsRbTerm s = .next (txD2H Config.TERM (setDev { s.dev with phase := .dErase, ea := 0, hs := .idle } s)) :=
  whenEnabled_of_enabled _ he

/-! ## What an enabled step or reaction of the host leaves -/

/-- The host at the beginning of an attempt (R222). -/
def startedHost (p : List Byte) (m : BitVec 2) (o : Cnt) (v : Byte) (h : HostInst) : HostInst :=
  { h with
    payload := p, fiMode := m, fiOffset := o, fiValue := v, hfault := 0, hs := .idle, ti := 0, rn := 0, flen := 0,
    phase := .hEncode }

theorem exec_lsStart_of_enabled {p : List Byte} {m : BitVec 2} {o : Cnt} {v : Byte}
    (he : enabled (.lsStart p m o v) s = true) :
    exec (.lsStart p m o v) s = .next (setHost (startedHost p m o v s.host) s) :=
  whenEnabled_of_enabled _ he

theorem exec_lsEncode_of_tooLong (he : enabled .lsEncode s = true) (hlen : Config.CAP ≤ s.host.payload.length) :
    exec .lsEncode s = .next (raiseHost .payloadTooLarge s) :=
  (whenEnabled_of_enabled _ he).trans (if_pos hlen)

/-- LS.ENCODE with the injector off or legal: the frame is the clean one as the injector leaves it (R176, R223). -/
theorem exec_lsEncode_of_legal {f : Buf} (he : enabled .lsEncode s = true) (hlen : s.host.payload.length < Config.CAP)
    (hlegal : fiLegal s.host.fiMode s.host.fiOffset s.host.fiValue (encodeInto s.host.payload s.host).flen = true)
    (hf : fiApplied s.host.fiMode s.host.fiOffset s.host.fiValue (encodeInto s.host.payload s.host).frame = some f) :
    exec .lsEncode s = .next (setHost { encodeInto s.host.payload s.host with frame := f, phase := .hReq } s) := by
  refine (whenEnabled_of_enabled _ he).trans ((if_neg hlen.not_ge).trans ?_)
  dsimp only
  split_ifs with hoff
  · rw [hoff, fiApplied_off] at hf
    obtain rfl := Option.some.inj hf
    rfl
  · rw [hf]

/-- LS.ENCODE with the injector illegal: the clean frame is built before the failure (R223, R264). -/
theorem exec_lsEncode_of_illegal (he : enabled .lsEncode s = true) (hlen : s.host.payload.length < Config.CAP)
    (hillegal :
      fiLegal s.host.fiMode s.host.fiOffset s.host.fiValue (encodeInto s.host.payload s.host).flen = false) :
    exec .lsEncode s = .next (raiseHost .fiConfig (setHost (encodeInto s.host.payload s.host) s)) := by
  have hoff : s.host.fiMode ≠ fiOff := fun hoff => by simp [hoff, fiLegal] at hillegal
  exact (whenEnabled_of_enabled _ he).trans
    ((if_neg hlen.not_ge).trans ((if_neg hoff).trans (if_neg (Bool.eq_false_iff.mp hillegal))))

/-- The host after a byte of the frame has been sent (R224). -/
def sentByte (h : HostInst) : HostInst :=
  { h with ti := h.ti + 1, phase := if h.ti + 1 = h.flen then .hReadback else h.phase }

theorem exec_lsTx_of_enabled (he : enabled .lsTx s = true) (hb : txByte s.host = some b) :
    exec .lsTx s = .next (txH2D b (setHost (sentByte s.host) s)) := by
  rw [← turn_host_of_enabled rfl he, turn_host_tx (enabled_lsTx_iff.mp he) hb]
  rfl

/-- The host after a byte of the readback has been collected (R225). -/
def collectedByte (b : Byte) (h : HostInst) : HostInst :=
  { h with rb := tabSet h.rb h.rn.toNat b, rn := h.rn + 1 }

theorem exec_lsRbData_of_enabled (he : enabled (.lsRbData b) s = true) :
    exec (.lsRbData b) s = .next (setHost (collectedByte b s.host) (rxD2H s)) :=
  whenEnabled_of_enabled _ he

theorem exec_lsRbTerm_of_enabled (he : enabled .lsRbTerm s = true) :
    exec .lsRbTerm s = .next (setHost { s.host with phase := .hDone } (rxD2H s)) :=
  whenEnabled_of_enabled _ he

theorem exec_lsRbOver_of_enabled (he : enabled (.lsRbOver b) s = true) :
    exec (.lsRbOver b) s = .next (raiseHost .readbackOverrun (rxD2H s)) :=
  whenEnabled_of_enabled _ he

theorem exec_lsRbTimeout_of_enabled (he : enabled .lsRbTimeout s = true) :
    exec .lsRbTimeout s = .next (raiseHost .linkFailure s) :=
  whenEnabled_of_enabled _ he

theorem exec_lsLinkfail_of_enabled (he : enabled .lsLinkfail s = true) :
    exec .lsLinkfail s = .next (raiseHost .linkFailure s) :=
  whenEnabled_of_enabled _ he

/-! ## The cells and registers that the device's transitions change -/

theorem storedByte_of_lt (b : Byte) {d : DeviceInst} (hn : d.n.toNat < Config.CAP) :
    storedByte b d = { d with nv := (storedByte b d).nv, buf := tabSet d.buf d.n.toNat b, n := d.n + 1 } := by
  conv_lhs => rw [storedByte, nvWriteByte_eq, nvChange_of_lt _ d hn]
  rfl

/-- A plain write at `N`, by the tag and the byte that the cell holds (R153, R212). -/
theorem nvCell_storedByte (b : Byte) {d : DeviceInst} (hn : d.n.toNat < Config.CAP) (x : Nat) :
    nvCell (storedByte b d).nv x =
      if x = d.n.toNat then
        if nvTag d.nv x = .erased then programmedCell b else programmedCell (Config.nvOverwrite (nvVal d.nv x) b)
      else nvCell d.nv x := by
  rw [storedByte, nvWriteByte_eq, nvCell_nvChange_of_lt _ d hn]
  split
  · next hx => rw [← hx, writtenCell_nvCell]
  · rfl

/-- The cell that a good device writes next is erased (R65, R80). -/
theorem DeviceGood.nvTag_n {d : DeviceInst} (hg : DeviceGood d) (hp : d.phase = .dRecv) (hn : d.n.toNat < Config.CAP) :
    nvTag d.nv d.n.toNat = .erased := by
  have herased : nvCell d.nv d.n.toNat = erasedCell := hg.aboveWindow (by rw [hp]; rfl) _ le_rfl hn
  rw [nvTag, herased]
  rfl

theorem committedPayload_of_lt (q : List Byte) {d : DeviceInst} (hsize : d.size.toNat < Config.CAP) :
    committedPayload q d = { d with
      nv := (committedPayload q d).nv, acc := checksum q, csum := checksum q, ri := 0, phase := .dReadback } := by
  conv_lhs => rw [committedPayload, nvEraseWrite_eq, nvChange_of_lt _ d hsize]
  rfl

theorem nvCell_committedPayload (q : List Byte) {d : DeviceInst} (hsize : d.size.toNat < Config.CAP) (x : Nat) :
    nvCell (committedPayload q d).nv x = if x = d.size.toNat then programmedCell (checksum q) else nvCell d.nv x :=
  nvCell_nvChange_of_lt _ d hsize x

/-- The failures that leave the handshake state as it is (R267). -/
theorem raiseHost_of_not_handshake {k : ErrKind} (hk : ¬ (k = .handshakeTimeout ∨ k = .handshakeMismatch)) :
    raiseHost k s = { s with host := { s.host with phase := .hFailed, hfault := k.code } } := by
  rw [raiseHost, if_neg hk]

end Sys2Proof.Machine

namespace Sys2Proof.Proofs

open Sys2Proof Sys2Proof.Machine

/-- Settles O25: the plain write meets, in a good state, a cell that is erased. -/
theorem deviceStoresByte : Obligations.DeviceStoresByte := by
  refine fun b s => ⟨?_, fun rest hp hc hb hn => ?_⟩
  · rw [decode_devWord_iff_enabled rfl, enabled_dsRxData_iff, and_assoc]
    rfl
  · have he : enabled (.dsRxData b) s = true := enabled_dsRxData_iff.mpr ⟨⟨hp, hc ▸ rfl⟩, hb, hn⟩
    have hcell := nvCell_storedByte b hn
    refine ⟨_, exec_dsRxData_of_enabled he, ?frame, fun k => tabGet_tabSet _ _ k b, hcell, cnt_toNat_add_one hn.le,
      fun hg => ?good⟩
    case frame =>
      conv_lhs => rw [storedByte_of_lt b hn, rxH2D_of_cons hc]
      rfl
    case good =>
      have htag := hg.nvTag_n hp hn
      exact ⟨htag, (hcell _).trans (by rw [if_pos rfl, if_pos htag]; rfl)⟩

/-- Settles O33: the three legal configurations, and what one injection leaves of the clean frame. -/
theorem hostEncodes : Obligations.HostEncodes := by
  intro s hp hlen hconfig
  have he : enabled .lsEncode s = true := enabled_lsEncode_iff.mpr hp
  have hflen : (encodeInto s.host.payload s.host).flen.toNat = s.host.payload.length + 2 :=
    toNat_encodeInto_flen (Nat.le_pred_of_lt hlen) s.host
  have hlegal : fiLegal s.host.fiMode s.host.fiOffset s.host.fiValue (encodeInto s.host.payload s.host).flen = true :=
    fiLegal_eq_true_iff.mpr (by rw [hflen]; exact hconfig)
  obtain ⟨f, hf⟩ := exists_fiApplied hlegal fun _ => encodeInto_frame_isSome s.host.payload s.host
  refine ⟨decodeHost_hostWord_none_of_enabled rfl he, _, exec_lsEncode_of_legal he hlen hlegal hf, hflen, rfl,
    fun k => ?_⟩
  exact (tabGet_fiApplied hf k).trans (by rw [tabGet_encodeInto]; rfl)

/-- Settles O34: the length is tested before the frame is built, the configuration after it. -/
theorem hostEncodeFailures : Obligations.HostEncodeFailures := by
  intro s hp
  have he : enabled .lsEncode s = true := enabled_lsEncode_iff.mpr hp
  refine ⟨fun hlen => ?tooLong, fun hlen hconfig => ?illegal⟩
  case tooLong =>
    rw [exec_lsEncode_of_tooLong he hlen, raiseHost_of_not_handshake (by decide)]
    rfl
  case illegal =>
    have hflen : (encodeInto s.host.payload s.host).flen.toNat = s.host.payload.length + 2 :=
      toNat_encodeInto_flen (Nat.le_pred_of_lt hlen) s.host
    have hillegal :
        fiLegal s.host.fiMode s.host.fiOffset s.host.fiValue (encodeInto s.host.payload s.host).flen = false :=
      fiLegal_eq_false_iff.mpr (by rw [hflen]; exact hconfig)
    refine ⟨_, exec_lsEncode_of_illegal he hlen hillegal, hflen, ?_, tabGet_encodeInto s.host.payload s.host⟩
    rw [raiseHost_of_not_handshake (by decide)]
    rfl

/-- Settles O24: inside the array NV.ERASE changes the one cell and no register. -/
theorem deviceErasesNextCell : Obligations.DeviceErasesNextCell := by
  intro s hp hea
  have he : enabled .dsErase s = true := enabled_dsErase_iff.mpr ⟨hp, hea⟩
  refine ⟨decodeDev_devWord_of_enabled rfl he, _, (turn_device_of_enabled rfl he).symm.trans (turn_device_erase hp hea),
    rfl, ?_⟩
  exact nvCell_nvChange_of_lt _ s.dev hea

/-- Settles O26: the phase, the byte at the head and `N` alone enable the transition, and `N - 1` does not wrap. -/
theorem deviceClosesWindow : Obligations.DeviceClosesWindow := by
  intro rest s hp hc hn _
  have he : enabled .dsRxTerm s = true := enabled_dsRxTerm_iff.mpr ⟨⟨hp, hc ▸ rfl⟩, hn⟩
  refine ⟨decodeDev_devWord_of_enabled rfl he, ?_, Nat.eq_sub_of_add_eq (cnt_toNat_sub_one hn)⟩
  rw [exec_dsRxTerm_of_enabled he, rxH2D_of_cons hc]
  rfl

/-- Settles O27: the count of the bytes stored and the byte at the head tell the two faults apart. -/
theorem deviceFaultEntry : Obligations.DeviceFaultEntry := by
  refine ⟨fun b rest s hp hc hb hn => ?overrun, fun rest s hp hc hn => ?empty⟩
  case overrun =>
    have he : enabled (.dsRxOver b) s = true := enabled_dsRxOver_iff.mpr ⟨⟨hp, hc ▸ rfl⟩, hb, hn⟩
    refine ⟨decodeDev_devWord_of_enabled rfl he, ?_⟩
    rw [exec_dsRxOver_of_enabled he, rxH2D_of_cons hc]
    rfl
  case empty =>
    have he : enabled .dsRxEmpty s = true := enabled_dsRxEmpty_iff.mpr ⟨⟨hp, hc ▸ rfl⟩, hn⟩
    refine ⟨decodeDev_devWord_of_enabled rfl he, ?_⟩
    rw [exec_dsRxEmpty_of_enabled he, rxH2D_of_cons hc]
    rfl

/-- Settles O28: both views of the verdict depend on the checksum alone. -/
theorem deviceVerifies : Obligations.DeviceVerifies := by
  intro w s hp hw
  have he : enabled .dsVerify s = true := enabled_dsVerify_iff.mpr hp
  refine ⟨decodeDev_devWord_of_enabled rfl he, ?_⟩
  rw [exec_dsVerify_of_enabled he hw, verifiedWindow, vokOf_verdictOf, diagOf_verdictOf]

/-- Settles O29: an erase-write inside the array changes the one cell and no register. -/
theorem deviceCommits : Obligations.DeviceCommits := by
  intro q s hp hq hsize
  have he : enabled .dsCommit s = true := enabled_dsCommit_iff.mpr hp
  refine ⟨decodeDev_devWord_of_enabled rfl he, _, exec_dsCommit_of_enabled he hq, ?_, nvCell_committedPayload q hsize⟩
  conv_lhs => rw [committedPayload_of_lt q hsize]
  rfl

/-- Settles O30: inside the array NV.READ is not refused. -/
theorem deviceReadsBack : Obligations.DeviceReadsBack := by
  intro s hp hri hcap
  have he : enabled .dsRbByte s = true := enabled_dsRbByte_iff.mpr ⟨hp, hri⟩
  exact ⟨decodeDev_devWord_of_enabled rfl he, exec_dsRbByte_of_enabled he (nvReadByte_of_lt s.dev hcap)⟩

/-- Settles O31: the guard of the transition is the condition stated. -/
theorem deviceRearms : Obligations.DeviceRearms :=
  fun _ => ⟨(decode_devWord_iff_enabled rfl).trans enabled_dsRbTerm_iff,
    fun hp hri => exec_dsRbTerm_of_enabled (enabled_dsRbTerm_iff.mpr ⟨hp, hri⟩)⟩

/-- Settles O32: the fields of the injector's word read back, and outside the three phases the start is lost. -/
theorem hostStartsAttempt : Obligations.HostStartsAttempt := by
  refine fun p m o v s => ⟨fun hp => ?taken, fun hidle hdone hfailed => ?lost⟩
  case taken =>
    have he : enabled (.lsStart p m o v) s = true := enabled_lsStart_iff.mpr hp
    exact ⟨decodeHost_hostWord_some_of_enabled (e := .start p (word22 m o v)) (by simp [reactsTo]) he,
      exec_lsStart_of_enabled he⟩
  case lost =>
    have hlost : decode (.host (hostWord (some (.start p (word22 m o v))) s)) = .error .noneEnabled := by
      simp [decode, decodeHost, hostWord, decodeHostEvent, hidle, hdone, hfailed]
    exact makeMove_of_decode_error rfl hlost

/-- Settles O35: the phase that LS.TX keeps before the end of the frame is `H_SEND`. -/
theorem hostTransmitsByte : Obligations.HostTransmitsByte := by
  intro b s hp hb
  have he : enabled .lsTx s = true := enabled_lsTx_iff.mpr hp
  refine ⟨decodeHost_hostWord_none_of_enabled rfl he, ?_⟩
  rw [exec_lsTx_of_enabled he hb, sentByte, hp]
  rfl

/-- Settles O36, a byte of the readback and its terminator. -/
theorem hostCollectsReadback : Obligations.HostCollectsReadback := by
  refine ⟨fun b rest s hp hc hb hn => ?data, fun rest s hp hc => ?terminator⟩
  case data =>
    have he : enabled (.lsRbData b) s = true := enabled_lsRbData_iff.mpr ⟨⟨hp, hc ▸ rfl⟩, hb, hn⟩
    refine ⟨decodeHost_hostWord_none_of_enabled rfl he, _, exec_lsRbData_of_enabled he, ?_,
      fun k => tabGet_tabSet _ _ k b⟩
    conv_lhs => rw [rxD2H_of_cons hc]
    rfl
  case terminator =>
    have he : enabled .lsRbTerm s = true := enabled_lsRbTerm_iff.mpr ⟨hp, hc ▸ rfl⟩
    exact ⟨decodeHost_hostWord_none_of_enabled rfl he,
      (turn_host_of_enabled rfl he).symm.trans (turn_host_rbTerm hp hc)⟩

/-- Settles O37: none of the three is a handshake failure. -/
theorem linkFailures : Obligations.LinkFailures := by
  refine ⟨fun b rest s hp hc hb hn => ?overrun, fun s hp hc => ?timeout, fun s hp => ?linkfail⟩
  case overrun =>
    have he : enabled (.lsRbOver b) s = true := enabled_lsRbOver_iff.mpr ⟨⟨hp, hc ▸ rfl⟩, hb, hn⟩
    refine ⟨decodeHost_hostWord_none_of_enabled rfl he, ?_⟩
    rw [exec_lsRbOver_of_enabled he, rxD2H_of_cons hc, raiseHost_of_not_handshake (by decide)]
    rfl
  case timeout =>
    have he : enabled .lsRbTimeout s = true := enabled_lsRbTimeout_iff.mpr ⟨hp, hc⟩
    refine ⟨decodeHost_hostWord_some_of_enabled (e := .timeout) (.inr rfl) he, ?_⟩
    rw [exec_lsRbTimeout_of_enabled he, raiseHost_of_not_handshake (by decide)]
    rfl
  case linkfail =>
    have he : enabled .lsLinkfail s = true := enabled_lsLinkfail_iff.mpr hp
    refine ⟨decodeHost_hostWord_some_of_enabled (e := .linkfail) rfl he, ?_⟩
    rw [exec_lsLinkfail_of_enabled he, raiseHost_of_not_handshake (by decide)]
    rfl

end Sys2Proof.Proofs

/-! SUPPORT. An enabled transition of one role as an effect that reads its own side alone, and that the two roles'
effects commute (R69, R75, R231). -/

namespace Sys2Proof.Machine

variable {s t u : State} {i : Instr}

/-! ## What the other role does disables nothing -/

/-- A byte that arrives enables or disables nothing where the phase takes none (R75, R109). -/
theorem decodeDev_withHead {w : DevWord} (hn : w.head = none) (h : decodeDev w = .ok i) (c : Option Byte) :
    decodeDev { w with head := c } = .ok i := by
  unfold decodeDev at h ⊢
  dsimp only
  cases hp : DPhase.ofCode w.phase with
  | dAwait | dRecv => simp [hp, hn, decodeAwait, decodeRecv] at h
  | _ => simpa only [hp] using h

theorem decodeHostTurn_withHead {ph : HPhase} {rn : Cnt} (h : decodeHostTurn ph rn none = .ok i) (c : Option Byte) :
    decodeHostTurn ph rn c = .ok i := by
  cases ph with
  | hAwait | hReadback => cases h
  | _ => exact h

/-- What the device sequencer leaves of the host's side: its registers, and in `D2H` the bytes in flight (R60, R69). -/
structure HostSideKept (s t : State) : Prop where
  host : t.host = s.host
  d2h : ∃ w, t.d2h = s.d2h ++ w

/-- A device transition leaves the host's side alone. -/
theorem exec_deviceOp_hostSideKept (hi : isDeviceOp i = true) (h : exec i s = .next t) : HostSideKept s t := by
  obtain ⟨hhost, -, -, hchannels⟩ := exec_deviceOp_transits hi h
  refine ⟨hhost, ?_⟩
  rcases hchannels.takes_or_sends with ⟨-, hout⟩ | ⟨-, hout⟩ | ⟨-, b, hout⟩
  · exact ⟨[], by rw [hout, List.append_nil]⟩
  · exact ⟨[], by rw [hout, List.append_nil]⟩
  · exact ⟨[b], hout⟩

/-- An enabled device transition stays enabled whatever the host does (R231). -/
theorem enabled_of_deviceSideKept (hi : isDeviceOp i = true) (hk : DeviceSideKept s t) (he : enabled i s = true) :
    enabled i t = true := by
  have hdec : decodeDev (devWord s) = .ok i := decodeDev_devWord_of_enabled hi he
  obtain ⟨hdev, w, hw⟩ := hk
  have hword : devWord t = { devWord s with head := (s.h2d ++ w).head? } := by rw [devWord, hdev, hw]; rfl
  refine (decodeDev_devWord_iff.mp (?_ : decodeDev (devWord t) = .ok i)).2
  rw [hword]
  cases hc : s.h2d with
  | nil => exact decodeDev_withHead (by rw [devWord, hc]; rfl) hdec _
  | cons b l =>
    have hhead : (devWord s).head = some b := by rw [devWord, hc]; rfl
    rwa [List.cons_append, List.head?_cons, ← hhead]

/-- An enabled host transition stays enabled whatever the device does (R231). -/
theorem enabled_of_hostSideKept (hi : isHostOp i = true) (hk : HostSideKept s t) (he : enabled i s = true) :
    enabled i t = true := by
  have hdec : decodeHost (hostWord none s) = .ok i := decodeHost_hostWord_none_of_enabled hi he
  obtain ⟨hhost, w, hw⟩ := hk
  refine (decodeHost_hostWord_none_iff.mp (?_ : decodeHost (hostWord none t) = .ok i)).2
  simp only [decodeHost, hostWord, hhost, hw] at hdec ⊢
  cases hc : s.d2h with
  | nil =>
    rw [hc] at hdec
    exact decodeHostTurn_withHead hdec _
  | cons b l => rwa [hc] at hdec

/-- A transition that takes a byte finds one (R102). -/
theorem h2d_ne_nil_of_takesByte (hi : isDeviceOp i = true) (he : enabled i s = true) (ht : takesByte i = true) :
    s.h2d ≠ [] := by
  intro hc
  cases i with
  | hsDSkip | hsDReq | dsRxData | dsRxTerm | dsRxOver | dsRxEmpty => simp [enabled, devSees, hc] at he
  | hsHAck | hsHNak | lsRbData | lsRbTerm | lsRbOver => exact Bool.noConfusion hi
  | _ => exact Bool.noConfusion ht

theorem d2h_ne_nil_of_takesByte (hi : isHostOp i = true) (he : enabled i s = true) (ht : takesByte i = true) :
    s.d2h ≠ [] := by
  intro hc
  cases i with
  | hsHAck | hsHNak | lsRbData | lsRbTerm | lsRbOver => simp [enabled, hostSees, hc] at he
  | hsDSkip | hsDReq | dsRxData | dsRxTerm | dsRxOver | dsRxEmpty => exact Bool.noConfusion hi
  | _ => exact Bool.noConfusion ht

/-! ## Effects -/

/-- A channel whose head a transition takes, or not. -/
def chanTaken (takes : Bool) (l : List Byte) : List Byte := if takes then l.tail else l

/-- The bytes that arrive behind the head do not matter to who takes it (R69). -/
theorem chanTaken_append {takes : Bool} {l : List Byte} (h : takes = true → l ≠ []) (w : List Byte) :
    chanTaken takes (l ++ w) = chanTaken takes l ++ w := by
  cases takes with
  | false => rfl
  | true => exact List.tail_append_of_ne_nil (h rfl)

/-- What a device transition does: the registers it leaves, whether it takes the head of `H2D`, what it sends, and the
diagnostics it puts out, if any. -/
structure DeviceEffect where
  dev : DeviceInst
  takes : Bool := false
  sent : List Byte := []
  diag : Option (List Diag) := none

/-- The state after a device transition with effect `e`. -/
def DeviceEffect.after (e : DeviceEffect) (s : State) : State :=
  { s with dev := e.dev, h2d := chanTaken e.takes s.h2d, d2h := s.d2h ++ e.sent, diag := e.diag.getD s.diag }

/-- What a host transition does: the registers it leaves, whether it takes the head of `D2H`, and what it sends. -/
structure HostEffect where
  host : HostInst
  takes : Bool := false
  sent : List Byte := []

/-- The state after a host transition with effect `f`. -/
def HostEffect.after (f : HostEffect) (s : State) : State :=
  { s with host := f.host, d2h := chanTaken f.takes s.d2h, h2d := s.h2d ++ f.sent }

/-- Two effects commute where neither takes a byte that only the other sends. -/
theorem DeviceEffect.after_comm {e : DeviceEffect} {f : HostEffect} (he : e.takes = true → s.h2d ≠ [])
    (hf : f.takes = true → s.d2h ≠ []) : f.after (e.after s) = e.after (f.after s) := by
  simp [DeviceEffect.after, HostEffect.after, chanTaken_append he, chanTaken_append hf]

theorem setDev_eq_after (d : DeviceInst) (s : State) : setDev d s = DeviceEffect.after { dev := d } s := by
  simp [setDev, DeviceEffect.after, chanTaken]

theorem setDev_rxH2D_eq_after (d : DeviceInst) (s : State) :
    setDev d (rxH2D s) = DeviceEffect.after { dev := d, takes := true } s := by
  simp [setDev, rxH2D, DeviceEffect.after, chanTaken]

theorem setHost_eq_after (h : HostInst) (s : State) : setHost h s = HostEffect.after { host := h } s := by
  simp [setHost, HostEffect.after, chanTaken]

theorem setHost_rxD2H_eq_after (h : HostInst) (s : State) :
    setHost h (rxD2H s) = HostEffect.after { host := h, takes := true } s := by
  simp [setHost, rxD2H, HostEffect.after, chanTaken]

/-- Operation `i` is the effect `e` wherever the device's registers are those of `s` and `i` is enabled. -/
def DeviceEffect.isOf (e : DeviceEffect) (i : Instr) (s : State) : Prop :=
  e.takes = takesByte i ∧ ∀ t, t.dev = s.dev → enabled i t = true → exec i t = .next (e.after t)

/-- Operation `i` is the effect `f` wherever the host's registers are those of `s` and `i` is enabled. -/
def HostEffect.isOf (f : HostEffect) (i : Instr) (s : State) : Prop :=
  f.takes = takesByte i ∧ ∀ t, t.host = s.host → enabled i t = true → exec i t = .next (f.after t)

/-! ## The transitions as effects -/

theorem exec_hsDReq_of_enabled (he : enabled .hsDReq s = true) :
    exec .hsDReq s = .next (setDev { s.dev with phase := .dReply } (rxH2D s)) :=
  whenEnabled_of_enabled _ he

theorem exec_hsHAck_of_enabled (he : enabled .hsHAck s = true) :
    exec .hsHAck s = .next (setHost { s.host with hs := .synced, phase := .hSend, ti := 0 } (rxD2H s)) :=
  whenEnabled_of_enabled _ he

section DeviceEffects

variable {g : DeviceInst → DeviceInst}

theorem exists_deviceEffect_of_quiet (ht : takesByte i = false)
    (h : ∀ t, t.dev = s.dev → enabled i t = true → exec i t = .next (setDev (g t.dev) t)) :
    ∃ e : DeviceEffect, e.isOf i s :=
  ⟨{ dev := g s.dev }, ht.symm, fun t hd he => by rw [h t hd he, hd, setDev_eq_after]⟩

theorem exists_deviceEffect_of_takes (ht : takesByte i = true)
    (h : ∀ t, enabled i t = true → exec i t = .next (setDev (g t.dev) (rxH2D t))) :
    ∃ e : DeviceEffect, e.isOf i s :=
  ⟨{ dev := g s.dev, takes := true }, ht.symm, fun t hd he => by rw [h t he, hd, setDev_rxH2D_eq_after]⟩

theorem exists_deviceEffect_of_sends {b : Byte} (ht : takesByte i = false)
    (h : ∀ t, t.dev = s.dev → enabled i t = true → exec i t = .next (txD2H b (setDev (g t.dev) t))) :
    ∃ e : DeviceEffect, e.isOf i s :=
  ⟨{ dev := g s.dev, sent := [b] }, ht.symm, fun t hd he => by rw [h t hd he, hd]; rfl⟩

end DeviceEffects

/-- A read without which an operation faults has found its value where the operation answers a next state. -/
theorem exists_some_of_answers {α : Type} {o : Option α} {r : Fault} (h : exec i s = .next u)
    (hnone : o = none → exec i s = .fault r) : ∃ x, o = some x := by
  cases o with
  | none => exact absurd ((hnone rfl).symm.trans h) nofun
  | some x => exact ⟨x, rfl⟩

/-- An enabled transition of the device that answers is an effect: it reads the device's registers alone. -/
theorem exists_deviceEffect (hi : isDeviceOp i = true) (he : enabled i s = true) (h : exec i s = .next u) :
    ∃ e : DeviceEffect, e.isOf i s := by
  cases i with
  | hsDArm =>
    exact exists_deviceEffect_of_quiet (g := fun d => { d with phase := .dAwait, hs := .awaitPeer }) rfl
      fun _ _ => exec_hsDArm_of_enabled
  | hsDSkip => exact exists_deviceEffect_of_takes (g := id) rfl fun _ => exec_hsDSkip_of_enabled
  | hsDReq =>
    exact exists_deviceEffect_of_takes (g := fun d => { d with phase := .dReply }) rfl
      fun _ => exec_hsDReq_of_enabled
  | hsDAck =>
    exact exists_deviceEffect_of_sends
      (g := fun d => { d with phase := .dRecv, hs := .synced, n := 0, size := 0, vdone := false, vok := false }) rfl
      fun _ _ => exec_hsDAck_of_enabled
  | dsErase =>
    exact exists_deviceEffect_of_quiet (g := fun d => { nvEraseCell d.ea d with ea := d.ea + 1 }) rfl
      fun _ _ => exec_dsErase_of_enabled
  | dsRxData b => exact exists_deviceEffect_of_takes (g := storedByte b) rfl fun _ => exec_dsRxData_of_enabled
  | dsRxTerm => exact exists_deviceEffect_of_takes (g := closedWindow) rfl fun _ => exec_dsRxTerm_of_enabled
  | dsRxOver =>
    exact exists_deviceEffect_of_takes (g := fun d => { d with dfault := 1, phase := .dFault }) rfl
      fun _ => exec_dsRxOver_of_enabled
  | dsRxEmpty =>
    exact exists_deviceEffect_of_takes (g := fun d => { d with dfault := 2, phase := .dFault }) rfl
      fun _ => exec_dsRxEmpty_of_enabled
  | dsVerify =>
    obtain ⟨w, hw⟩ : ∃ w, rxWindow s.dev = some w :=
      exists_some_of_answers h fun hnone => (whenEnabled_of_enabled _ he).trans (by rw [hnone])
    refine ⟨{ dev := verifiedWindow w s.dev, diag := some (diagOf (verdictOf (checksum w))) }, rfl, fun t hd he => ?_⟩
    rw [exec_dsVerify_of_enabled he (hd ▸ hw), hd]
    simp [DeviceEffect.after, chanTaken]
  | dsCommit =>
    obtain ⟨q, hq⟩ : ∃ q, rxPayload s.dev = some q :=
      exists_some_of_answers h fun hnone => (whenEnabled_of_enabled _ he).trans (by rw [hnone])
    exact exists_deviceEffect_of_quiet (g := committedPayload q) rfl
      fun _ hd he => exec_dsCommit_of_enabled he (hd ▸ hq)
  | dsRbByte =>
    obtain ⟨b, hb⟩ : ∃ b, nvReadByte s.dev.ri s.dev = some b :=
      exists_some_of_answers h fun hnone => (whenEnabled_of_enabled _ he).trans (by rw [hnone])
    exact exists_deviceEffect_of_sends (g := fun d => { d with ri := d.ri + 1 }) rfl
      fun _ hd he => exec_dsRbByte_of_enabled he (hd ▸ hb)
  | dsRbTerm =>
    exact exists_deviceEffect_of_sends (g := fun d => { d with phase := .dErase, ea := 0, hs := .idle }) rfl
      fun _ _ => exec_dsRbTerm_of_enabled
  | _ => exact Bool.noConfusion hi

section HostEffects

variable {g : HostInst → HostInst}

theorem exists_hostEffect_of_quiet (ht : takesByte i = false)
    (h : ∀ t, t.host = s.host → enabled i t = true → exec i t = .next (setHost (g t.host) t)) :
    ∃ f : HostEffect, f.isOf i s :=
  ⟨{ host := g s.host }, ht.symm, fun t hd he => by rw [h t hd he, hd, setHost_eq_after]⟩

theorem exists_hostEffect_of_takes (ht : takesByte i = true)
    (h : ∀ t, enabled i t = true → exec i t = .next (setHost (g t.host) (rxD2H t))) :
    ∃ f : HostEffect, f.isOf i s :=
  ⟨{ host := g s.host, takes := true }, ht.symm, fun t hd he => by rw [h t he, hd, setHost_rxD2H_eq_after]⟩

theorem exists_hostEffect_of_sends {b : Byte} (ht : takesByte i = false)
    (h : ∀ t, t.host = s.host → enabled i t = true → exec i t = .next (txH2D b (setHost (g t.host) t))) :
    ∃ f : HostEffect, f.isOf i s :=
  ⟨{ host := g s.host, sent := [b] }, ht.symm, fun t hd he => by rw [h t hd he, hd]; rfl⟩

end HostEffects

/-- LS.ENCODE is an effect, in each of its three outcomes (R223, R264). -/
theorem exists_hostEffect_lsEncode (s : State) : ∃ f : HostEffect, f.isOf .lsEncode s := by
  rcases le_or_gt Config.CAP s.host.payload.length with hlen | hlen
  · exact exists_hostEffect_of_quiet (g := fun h => { h with hfault := 1, phase := .hFailed }) rfl
      fun _ hd he => exec_lsEncode_of_tooLong he (hd ▸ hlen)
  · cases hlegal : fiLegal s.host.fiMode s.host.fiOffset s.host.fiValue (encodeInto s.host.payload s.host).flen with
    | false =>
      exact exists_hostEffect_of_quiet
        (g := fun h => { encodeInto h.payload h with hfault := 7, phase := .hFailed }) rfl
        fun _ hd he => exec_lsEncode_of_illegal he (hd ▸ hlen) (hd ▸ hlegal)
    | true =>
      obtain ⟨f, hf⟩ := exists_fiApplied hlegal fun _ => encodeInto_frame_isSome s.host.payload s.host
      exact exists_hostEffect_of_quiet
        (g := fun h => { encodeInto h.payload h with frame := f, phase := .hReq }) rfl
        fun _ hd he => exec_lsEncode_of_legal he (hd ▸ hlen) (hd ▸ hlegal) (hd ▸ hf)

/-- An enabled transition of the host that answers is an effect: it reads the host's registers alone. -/
theorem exists_hostEffect (hi : isHostOp i = true) (he : enabled i s = true) (h : exec i s = .next u) :
    ∃ f : HostEffect, f.isOf i s := by
  cases i with
  | hsHReq =>
    exact exists_hostEffect_of_sends (g := fun h => { h with phase := .hAwait, hs := .awaitPeer }) rfl
      fun _ _ => exec_hsHReq_of_enabled
  | hsHAck =>
    exact exists_hostEffect_of_takes (g := fun h => { h with hs := .synced, phase := .hSend, ti := 0 }) rfl
      fun _ => exec_hsHAck_of_enabled
  | hsHNak =>
    exact exists_hostEffect_of_takes (g := fun h => { h with hfault := 4, hs := .failed, phase := .hFailed }) rfl
      fun _ => exec_hsHNak_of_enabled
  | lsEncode => exact exists_hostEffect_lsEncode s
  | lsTx =>
    obtain ⟨b, hb⟩ : ∃ b, txByte s.host = some b :=
      exists_some_of_answers h fun hnone => (whenEnabled_of_enabled _ he).trans (by rw [hnone])
    exact exists_hostEffect_of_sends (g := sentByte) rfl fun _ hd he => exec_lsTx_of_enabled he (hd ▸ hb)
  | lsRbData b => exact exists_hostEffect_of_takes (g := collectedByte b) rfl fun _ => exec_lsRbData_of_enabled
  | lsRbTerm =>
    exact exists_hostEffect_of_takes (g := fun h => { h with phase := .hDone }) rfl fun _ => exec_lsRbTerm_of_enabled
  | lsRbOver =>
    exact exists_hostEffect_of_takes (g := fun h => { h with hfault := 6, phase := .hFailed }) rfl
      fun _ => exec_lsRbOver_of_enabled
  | _ => exact Bool.noConfusion hi

end Sys2Proof.Machine

namespace Sys2Proof.Proofs

open Sys2Proof Sys2Proof.Machine

/-- Settles O56: each transition is an effect that the other one leaves as it is, and a byte that one sends goes behind
the byte that the other takes. -/
theorem rolesCommute : Obligations.RolesCommute := by
  intro i j s u v hi hj hei hej hu hv
  obtain ⟨e, htakes, hexec⟩ := exists_deviceEffect hi hei hu
  obtain ⟨f, htakes', hexec'⟩ := exists_hostEffect hj hej hv
  have hhost : HostSideKept s u := exec_deviceOp_hostSideKept hi hu
  have hdev : DeviceSideKept s v := exec_hostSequencer_deviceSideKept (.inl hj) hv
  have hju : enabled j u = true := enabled_of_hostSideKept hj hhost hej
  have hiv : enabled i v = true := enabled_of_deviceSideKept hi hdev hei
  obtain rfl : e.after s = u := Host.Outcome.next.inj ((hexec s rfl hei).symm.trans hu)
  obtain rfl : f.after s = v := Host.Outcome.next.inj ((hexec' s rfl hej).symm.trans hv)
  refine ⟨hju, hiv, _, hexec' _ hhost.host hju, ?_⟩
  rw [hexec _ hdev.dev hiv, DeviceEffect.after_comm]
  · exact fun ht => h2d_ne_nil_of_takesByte hi hei (htakes ▸ ht)
  · exact fun ht => d2h_ne_nil_of_takesByte hj hej (htakes' ▸ ht)

end Sys2Proof.Proofs

/-! SUPPORT. The clean session leg by leg: the request, its answer, the frame, the readback, and the erase pass that
arms the device again (R210, R221, R232). -/

namespace Sys2Proof.Machine

variable {s : State} {p rest : List Byte}

/-! ## Runs of moves -/

theorem runMoves_trans {ms ns : List Move} {t u : State} (h : runMoves ms s = .next t) (h' : runMoves ns t = .next u) :
    runMoves (ms ++ ns) s = .next u :=
  (runMoves_append h).trans h'

theorem event_host_of_enabled {e : HostEvent} {i : Instr} (hr : reactsTo e i) (he : enabled i s = true) :
    makeMove (.event (.host e)) s = exec i s :=
  makeMove_of_decode_ok rfl (decodeHost_hostWord_some_of_enabled hr he) rfl

theorem runMoves_cons {m : Move} {ms : List Move} {t : State} (h : makeMove m s = .next t) :
    runMoves (m :: ms) s = runMoves ms t := by
  rw [runMoves, h]

/-! ## The request and its answer -/

/-- A host that has built the clean frame of `p` and awaits the reply to its request (R196, R223). -/
structure AwaitsReply (p : List Byte) (h : HostInst) : Prop where
  phase : h.phase = .hAwait
  frame : h.frame = bufFrom 0 (encodeFrame p)
  flen : h.flen.toNat = p.length + 2
  rn : h.rn = 0
  hfault : h.hfault = 0

/-- A start with the injector off, LS.ENCODE and the request (R222, R223, R196). -/
theorem begin_attempt (hs : s.host.phase = .hIdle ∨ s.host.phase = .hDone ∨ s.host.phase = .hFailed)
    (hp : p.length ≤ Config.MAXPAY) :
    ∃ h, AwaitsReply p h ∧
      runMoves ([.event (.host (.start p 0))] ++ turns .host 2) s =
        .next { s with host := h, h2d := s.h2d ++ [Config.TOK_REQ] } := by
  have hlen : p.length < Config.CAP := Nat.lt_of_le_pred (by decide) hp
  have hstart : makeMove (.event (.host (.start p 0))) s = .next (setHost (startedHost p fiOff 0 0 s.host) s) :=
    have he : enabled (.lsStart p fiOff 0 0) s = true := enabled_lsStart_iff.mpr hs
    (event_host_of_enabled (e := .start p 0) rfl he).trans (exec_lsStart_of_enabled he)
  have hencode := exec_lsEncode_of_legal (s := setHost (startedHost p fiOff 0 0 s.host) s) rfl hlen rfl
    (fiApplied_off 0 0 _)
  exact ⟨{ encodeInto p (startedHost p fiOff 0 0 s.host) with phase := .hAwait, hs := .awaitPeer },
    ⟨rfl, rfl, toNat_encodeInto_flen hp (startedHost p fiOff 0 0 s.host), rfl, rfl⟩,
    (runMoves_cons hstart).trans
      ((runMoves_turns_succ ((turn_host_of_enabled rfl rfl).trans hencode)).trans
        (runMoves_turns_succ ((turn_host_of_enabled rfl rfl).trans (exec_hsHReq_of_enabled rfl))))⟩

/-- The device after HS.D_ACK (R195). -/
def acknowledgedRequest (d : DeviceInst) : DeviceInst :=
  { d with phase := .dRecv, hs := .synced, n := 0, size := 0, vdone := false, vok := false }

/-- The device takes the request and acknowledges it (R194, R195). -/
theorem answer_request (hp : s.dev.phase = .dAwait) (hc : s.h2d = Config.TOK_REQ :: rest) :
    runMoves (turns .device 2) s = .next { s with
      dev := acknowledgedRequest s.dev, h2d := rest, d2h := s.d2h ++ [Config.TOK_ACK] } :=
  (runMoves_turns_succ (turn_device_req hp hc)).trans
    (runMoves_turns_succ ((turn_device_of_enabled rfl rfl).trans (exec_hsDAck_of_enabled rfl)))

theorem DeviceGood.acknowledgedRequest {d : DeviceInst} (hg : DeviceGood d) (hp : d.phase = .dAwait) :
    DeviceGood (acknowledgedRequest d) :=
  (hg.takeRequest hp).acknowledge rfl

/-! ## The frame -/

/-- A host that has collected the bytes `v` of the readback and awaits the next one (R225). -/
structure HasCollected (v : List Byte) (h : HostInst) : Prop where
  phase : h.phase = .hReadback
  hfault : h.hfault = 0
  readback : bufTake h.rb h.rn.toNat = some v

/-- The host takes the reply and sends its frame (R197, R224). -/
theorem send_frame (h : AwaitsReply p s.host) (hc : s.d2h = Config.TOK_ACK :: rest) :
    ∃ g, HasCollected [] g ∧
      runMoves (turns .host (p.length + 3)) s =
        .next { s with host := g, d2h := rest, h2d := s.h2d ++ encodeFrame p } := by
  have hframe : bufTake s.host.frame s.host.flen.toNat = some (encodeFrame p) := by
    have hlength : (encodeFrame p).length = p.length + 2 := by simp [encodeFrame]
    rw [h.frame, h.flen, bufTake_bufFrom _ hlength.ge, ← hlength, List.take_length]
  have hsend := Proofs.hostSendsTheFrame (encodeFrame p)
    { s with d2h := rest, host := { s.host with phase := .hSend, hs := .synced, ti := 0 } } rfl rfl
    (h.flen ▸ Nat.succ_pos _) hframe
  rw [show p.length + 3 = s.host.flen.toNat + 1 by rw [h.flen], runMoves_turns_succ (turn_host_ack h.phase hc)]
  exact ⟨{ s.host with phase := .hReadback, hs := .synced, ti := s.host.flen },
    ⟨rfl, h.hfault, by rw [h.rn]; rfl⟩, hsend⟩

/-! ## The readback -/

theorem HasCollected.rn_eq {v : List Byte} {h : HostInst} (hv : HasCollected v h) : h.rn.toNat = v.length :=
  (bufTake_length hv.readback).symm

/-- LS.RB.DATA lengthens the readback by the byte it takes (R225). -/
theorem HasCollected.collect {v : List Byte} {h : HostInst} (hv : HasCollected v h) (hn : h.rn.toNat < Config.CAP)
    (b : Byte) : HasCollected (v ++ [b]) (collectedByte b h) where
  phase := hv.phase
  hfault := hv.hfault
  readback := by
    rw [collectedByte, cnt_toNat_add_one hn.le]
    exact bufTake_tabSet_succ b hv.readback

theorem turn_host_rbData {b : Byte} (hp : s.host.phase = .hReadback) (hc : s.d2h = b :: rest) (hb : b ≠ Config.TERM)
    (hn : s.host.rn.toNat < Config.CAP) :
    makeMove (.turn .host) s = .next { s with host := collectedByte b s.host, d2h := rest } := by
  have he : enabled (.lsRbData b) s = true := enabled_lsRbData_iff.mpr ⟨⟨hp, hc ▸ rfl⟩, hb, hn⟩
  rw [turn_host_of_enabled rfl he, exec_lsRbData_of_enabled he, rxD2H_of_cons hc]
  rfl

/-- The host collects the bytes of a readback that fits, one a turn (R225). -/
theorem collect_readback {v w : List Byte} (h : HasCollected v s.host) (hw : Config.TERM ∉ w)
    (hlen : v.length + w.length ≤ Config.CAP) (hc : s.d2h = w ++ rest) :
    ∃ g, HasCollected (v ++ w) g ∧ runMoves (turns .host w.length) s = .next { s with host := g, d2h := rest } := by
  induction w generalizing v s with
  | nil =>
    refine ⟨s.host, by rwa [List.append_nil], ?_⟩
    rw [← show s.d2h = rest from hc]
    rfl
  | cons b w ih =>
    obtain ⟨hb, hw⟩ := not_or.mp (mt List.mem_cons.mpr hw)
    rw [List.length_cons] at hlen
    have hn : s.host.rn.toNat < Config.CAP := by rw [h.rn_eq]; omega
    rw [List.length_cons, runMoves_turns_succ (turn_host_rbData h.phase hc (Ne.symm hb) hn), List.append_cons]
    exact ih (h.collect hn b) hw (by simp; omega) rfl

/-- The host collects a whole readback and its terminator (R225, R226). -/
theorem finish_readback {w : List Byte} (h : HasCollected [] s.host) (hw : Config.TERM ∉ w)
    (hlen : w.length ≤ Config.CAP) (hc : s.d2h = w ++ Config.TERM :: rest) :
    ∃ g, HasCollected w g ∧
      runMoves (turns .host (w.length + 1)) s =
        .next { s with host := { g with phase := .hDone }, d2h := rest } := by
  obtain ⟨g, hg, hrun⟩ := collect_readback h hw (by simpa using hlen) hc
  exact ⟨g, hg, (runMoves_turns_add hrun).trans (runMoves_turns_succ (turn_host_rbTerm hg.phase rfl))⟩

/-! ## The device armed again -/

/-- A whole erase pass, and the device arms (R192, R211). -/
theorem erase_and_arm (hp : s.dev.phase = .dErase) (hea : s.dev.ea = 0) :
    ∃ m, erasedFrom m 0 Config.CAP ∧
      runMoves (turns .device (Config.CAP + 1)) s = .next { s with
        dev := { s.dev with nv := m, ea := capCnt, phase := .dAwait, hs := .awaitPeer } } := by
  have hea0 : s.dev.ea.toNat = 0 := by rw [hea]; rfl
  obtain ⟨m, herased, hrun⟩ := erase_cells (k := Config.CAP) (r := capCnt) hp (by rw [hea0]; rfl) le_rfl
    (hea0 ▸ erasedFrom_empty s.dev.nv 0)
  have harm : enabled .hsDArm { s with dev := { s.dev with nv := m, ea := capCnt } } = true :=
    enabled_hsDArm_iff.mpr ⟨hp, rfl⟩
  exact ⟨m, herased, (runMoves_turns_add hrun).trans
    (runMoves_turns_succ ((turn_device_of_enabled rfl harm).trans (exec_hsDArm_of_enabled harm)))⟩

end Sys2Proof.Machine

namespace Sys2Proof.Proofs

open Sys2Proof Sys2Proof.Machine

/-- Settles O60, leg by leg: what each leg leaves is what the next one starts from, and the device's own leg is the
session of `deviceServesOneSession` on a window that verifies. -/
theorem cleanSessionDelivers : Obligations.CleanSessionDelivers := by
  intro p s hg hdev hhost hh2d hd2h hp hterm
  have hwindow : (p ++ [checksum p]).length = p.length + 1 := List.length_append
  have hfits : (p ++ [checksum p]).length ≤ Config.CAP := hwindow ▸ Nat.succ_le_succ hp
  have hverifies : checksum (p ++ [checksum p]) = 0x00 := (checksumVerifiesItself p 0).1
  obtain ⟨h, hawaits, hbegin⟩ := begin_attempt hhost hp
  rw [hh2d, hd2h] at hbegin
  have hanswer := answer_request (rest := []) (s := { s with host := h, h2d := [Config.TOK_REQ], d2h := [] }) hdev rfl
  obtain ⟨g, hsent, hframe⟩ := send_frame (rest := [])
    (s := { s with dev := acknowledgedRequest s.dev, host := h, h2d := [], d2h := [Config.TOK_ACK] }) hawaits rfl
  obtain ⟨t, hserve, hth2d, htd2h, rfl, htphase, htea, -, htn, htsize, htcsum, htvdone, htvok, htfault, htdiag⟩ :=
    deviceServesOneSession (p ++ [checksum p]) []
      { s with dev := acknowledgedRequest s.dev, host := g, h2d := encodeFrame p, d2h := [] }
      (hg.dev.acknowledgedRequest hdev) rfl rfl (by simp) hterm hfits (List.append_nil _).symm
  rw [List.dropLast_concat] at htd2h htcsum
  obtain ⟨k, hcollected, hreadback⟩ := finish_readback (rest := []) hsent hterm hfits htd2h
  obtain ⟨m, herased, harm⟩ := erase_and_arm
    (s := { t with host := { k with phase := .hDone }, d2h := [] }) htphase htea
  rw [hwindow] at hserve hreadback
  have hrun : runMoves (sessionMoves p) s = _ :=
    runMoves_trans (runMoves_trans (runMoves_trans (runMoves_trans (runMoves_trans hbegin hanswer) hframe) hserve)
      hreadback) harm
  exact ⟨_, hrun, rfl, hcollected.hfault, hcollected.rn_eq.trans hwindow,
    hwindow ▸ hcollected.rn_eq ▸ hcollected.readback, rfl, htfault, htn.trans hwindow, by rw [htsize, hwindow]; rfl,
    htvdone, htvok.trans (decide_eq_true hverifies), htcsum, fun a => herased a a.zero_le, hth2d, rfl,
    htdiag.trans (if_pos hverifies)⟩

end Sys2Proof.Proofs

/-! SUPPORT. The integrity verifier as a unit: what IV.VERIFY leaves and answers (45_integrity_verifier.md, R250). -/

namespace Sys2Proof.Machine

theorem exec_ivVerify (w : List Byte) (s : State) :
    exec (.ivVerify w) s =
      .next (setReply (.verdict (verdictOf (checksum w))) (setDev { s.dev with acc := checksum w } s)) := rfl

end Sys2Proof.Machine

namespace Sys2Proof.Proofs

open Sys2Proof Sys2Proof.Machine

/-- Settles O16: the verdict is OK for the checksum zero and for no other. -/
theorem ivVerifyReportsChecksum : Obligations.IvVerifyReportsChecksum := by
  intro w s
  rw [exec_ivVerify]
  by_cases hzero : checksum w = 0x00
  · rw [if_pos hzero, verdictOf_eq_ok_iff.mpr hzero]
    rfl
  · rw [if_neg hzero, verdictOf_of_ne_zero hzero]
    rfl

end Sys2Proof.Proofs

/-! SUPPORT. RESET of either role and the power cycle: what each leaves of the NV array and of the registers
(R64, R275, R300). -/

namespace Sys2Proof.Machine

variable {m : NvMem}

theorem nvVal_nvForgetTags (h : NvMem.wf m) (x : Nat) : nvVal (nvForgetTags m) x = nvVal m x := by
  obtain ⟨hrising, -, -⟩ := h
  rw [nvVal, nvCell_nvForgetTags hrising]
  rfl

theorem nvTag_nvForgetTags (h : NvMem.wf m) (x : Nat) : nvTag (nvForgetTags m) x = .unknown := by
  obtain ⟨hrising, -, -⟩ := h
  rw [nvTag, nvCell_nvForgetTags hrising]

theorem exec_reset_device (s : State) : exec (.reset .device) s = .next (resetDevice s) := rfl

theorem exec_reset_host (s : State) : exec (.reset .host) s = .next (resetHost s) := rfl

theorem makeMove_powerCycle (s : State) : makeMove .powerCycle s = .next (powerCycle s) := rfl

end Sys2Proof.Machine

namespace Sys2Proof.Proofs

open Sys2Proof Sys2Proof.Machine

/-- Settles O38: RESET of the device and the power cycle leave the same array, the one with every tag forgotten, and every
other register of a reset role is a constant. -/
theorem resetKeepsNvValues : Obligations.ResetKeepsNvValues := by
  intro s
  refine ⟨fun hnv => ?device, exec_reset_host s, fun hnv => ?power⟩
  case device =>
    exact ⟨_, exec_reset_device s, rfl, nvVal_nvForgetTags hnv, nvTag_nvForgetTags hnv⟩
  case power =>
    exact ⟨_, makeMove_powerCycle s, powerCycle_h2d s, powerCycle_d2h s, powerCycle_host s, powerCycle_dev s,
      nvVal_nvForgetTags hnv, nvTag_nvForgetTags hnv⟩

end Sys2Proof.Proofs

/-! SUPPORT. What the bench port turns away: when the port bars a command, a payload that FC.ENCODE does not admit, and a
bare word that its format does not admit (R171, R319, logs 10, 12, 15). -/

namespace Sys2Proof.Machine

variable {s : State}

/-! ## When a sequencer counts as running -/

theorem deviceRunning_eq_true_iff :
    deviceRunning s = true ↔ s.dev.phase ≠ .dFault ∧ (s.dev.phase = .dErase → s.dev.ea ≠ 0) := by
  rw [← Bool.not_eq_false, deviceRunning_eq_false, not_or, not_and]

theorem hostRunning_eq_true_iff :
    hostRunning s = true ↔ s.host.phase ≠ .hIdle ∧ s.host.phase ≠ .hDone ∧ s.host.phase ≠ .hFailed := by
  rw [← Bool.not_eq_false, hostRunning_eq_false, not_or, not_or]

/-! ## Commands that the port bars -/

/-- Every word of the storage format is a storage command, which the port bars while the device runs (R106, R319). -/
theorem decodeNvc_portBars (w : BitVec 22) : ∃ i, decodeNvc w = .ok i ∧ ∀ s, portBars i s = deviceRunning s := by
  unfold decodeNvc
  split <;> exact ⟨_, rfl, fun _ => rfl⟩

theorem makeMove_bench_nvc_of_running (w : BitVec 22) (hrun : deviceRunning s = true) :
    makeMove (.bench (.nvc w)) s = .refused .portInUse := by
  obtain ⟨i, hdecode, hbars⟩ := decodeNvc_portBars w
  exact makeMove_of_barred rfl hdecode ((hbars s).trans hrun)

theorem makeMove_bench_fic_of_running (w : BitVec 22) (hrun : hostRunning s = true) :
    makeMove (.bench (.fic w)) s = .refused .portInUse :=
  makeMove_of_barred (i := .fiApply (wordTop w) (wordMid w) (wordLow w)) rfl rfl hrun

/-! ## Payloads -/

theorem decode_payload_of_le {p : List Byte} (hp : p.length ≤ Config.MAXPAY) :
    decode (.payload p) = .ok (.fcEncode p) := if_pos hp

theorem decode_payload_of_lt {p : List Byte} (hp : Config.MAXPAY < p.length) :
    decode (.payload p) = .error .payloadTooLong := if_neg hp.not_ge

theorem exec_fcEncode_of_lt {p : List Byte} (hp : Config.MAXPAY < p.length) (s : State) :
    exec (.fcEncode p) s = .refused .payloadTooLong := if_neg hp.not_ge

theorem makeMove_bench_payload_of_running {p : List Byte} (hp : p.length ≤ Config.MAXPAY)
    (hrun : hostRunning s = true) : makeMove (.bench (.payload p)) s = .refused .portInUse :=
  makeMove_of_barred rfl (decode_payload_of_le hp) hrun

/-- A payload that is too long is no operation, whether the host runs or not (R171, log 15). -/
theorem makeMove_bench_payload_of_lt {p : List Byte} (hp : Config.MAXPAY < p.length) (s : State) :
    makeMove (.bench (.payload p)) s = .refused .payloadTooLong :=
  makeMove_of_decode_error rfl (decode_payload_of_lt hp)

/-! ## Bare words -/

/-- A bare word with bits above the format that its width selects is no word of that format (log 12). -/
theorem decode_raw_of_wide {nbits w : Nat}
    (hw : if nbits ≤ 8 then 2 ^ 8 ≤ w else if nbits ≤ 16 then 2 ^ 10 ≤ w else 2 ^ 22 ≤ w) :
    decode (.raw nbits w) = .error .wordTooWide := by
  rw [decode, decodeRaw]
  by_cases hbyte : nbits ≤ 8
  · rw [if_pos hbyte] at hw
    rw [if_pos hbyte, if_neg hw.not_gt]
  · rw [if_neg hbyte] at hw
    rw [if_neg hbyte]
    by_cases hcec : nbits ≤ 16
    · rw [if_pos hcec] at hw
      rw [if_pos hcec, if_neg hw.not_gt]
    · rw [if_neg hcec] at hw
      rw [if_neg hcec, if_neg hw.not_gt]

end Sys2Proof.Machine

namespace Sys2Proof.Proofs

open Sys2Proof Sys2Proof.Machine

/-- Settles O47: the port's bar on a running unit, and the two rejects of the decoder. -/
theorem refusedAtThePort : Obligations.RefusedAtThePort := by
  refine ⟨fun w s hfault herase => ?storage, fun s hidle hdone hfailed => ?frame, fun p s hp => ?payload,
    fun nbits w s hw => ?bare⟩
  case storage => exact makeMove_bench_nvc_of_running w (deviceRunning_eq_true_iff.mpr ⟨hfault, herase⟩)
  case frame =>
    have hrun : hostRunning s = true := hostRunning_eq_true_iff.mpr ⟨hidle, hdone, hfailed⟩
    exact ⟨fun w => makeMove_bench_fic_of_running w hrun, fun p hp => makeMove_bench_payload_of_running hp hrun⟩
  case payload => exact ⟨exec_fcEncode_of_lt hp s, makeMove_bench_payload_of_lt hp s⟩
  case bare => exact makeMove_of_decode_error rfl (decode_raw_of_wide hw)

end Sys2Proof.Proofs
